-- ==== Sys2Proof/Word.lean ====
section
/-! DEFINITION. The word types of the block, each at the width the spec gives it (00_scope.md R5, R8, R12).
Every value is unsigned (R8); `+`, `<` and `≤` of `BitVec` are the spec's `+N`, `<u` and (swapped) `>=u`. -/

namespace Sys2Proof

/-- A command word, `cmd[7:0]` (R50). -/
abbrev Command := BitVec 8

/-- A sample of the platform's 32-bit microsecond counter, `cnt32[31:0]` (R5 `SAMPLE_W`, R12). -/
abbrev Sample := BitVec 32

/-- The overflow counter's width (R5 `OVF_W`, R22). -/
abbrev WrapCount := BitVec 32

/-- A tick: a 64-bit unsigned count of microseconds (R5 `TICK_W`, R6). Also the width of `result[63:0]` (R12). -/
abbrev Tick := BitVec 64

/-- An electrical pin level, 0 or 1 (R5, R12). A logical value (`pressed`, a pending flag) is a `Bool` (R8). -/
abbrev Level := BitVec 1

end Sys2Proof
end

