-- ==== Sys2Proof/Syntax.lean ====
section
/-! DEFINITION. The five operations (30_encoding.md R55), the channel index (00_scope.md R7) and the fields of the
one command format C (30_encoding.md R50). -/

namespace Sys2Proof

/-- A channel index (R7): the type has exactly the `N_CH = 2` values the spec admits (R5, R23). -/
inductive ChanId where
  /-- Channel 0, the button Vol−. -/
  | c0
  /-- Channel 1, the button Vol+. -/
  | c1
deriving DecidableEq, Repr

/-- The channel index as a number (R7). -/
def ChanId.index : ChanId → Nat
  | .c0 => 0
  | .c1 => 1

/-- The operations, one constructor per row of spec/opcode_table.json (R55). The data operands are no part of a
command: they come from the ports (R54). -/
inductive Instr where
  /-- NOW (R63). -/
  | now
  /-- UPDATE (R70). -/
  | update (ch : ChanId)
  /-- ISPRESSED (R85). -/
  | ispressed (ch : ChanId)
  /-- ISSHORT (R86). -/
  | isshort (ch : ChanId)
  /-- ISLONG (R87). -/
  | islong (ch : ChanId)
deriving DecidableEq, Repr

/-- The three fields of a command word of format C (R50): `z = cmd[7:4]`, `ch = cmd[3]`, `op = cmd[2:0]`. -/
structure Fields where
  z : BitVec 4
  ch : BitVec 1
  op : BitVec 3
deriving DecidableEq, Repr

/-- Why a command word is reserved: the three classes of R56. -/
inductive Reserved where
  /-- `z ≠ 0000` (240 words). -/
  | zNotZero
  /-- `z = 0000` and `op ∈ {101, 110, 111}` (6 words). -/
  | opUnassigned
  /-- `z = 0000`, `op = 000`, `ch = 1`: NOW with a channel bit (1 word). -/
  | nowChannelBit
deriving DecidableEq, Repr

end Sys2Proof
end

