-- ==== Sys2Proof/WellFormed.lean ====
section
/-! DEFINITION. Which fields of format C form a legal command (30_encoding.md R50 to R53, R56): one check per class
of reserved word. Every term of `Instr` is well formed by its type: an operation has no operand but a channel index,
and `ChanId` has no value outside `{0, 1}` (R7). -/

namespace Sys2Proof

/-- `z` carries nothing and must be `0000` (R53). -/
def Fields.zZero (f : Fields) : Bool := f.z == 0#4

/-- `op` is one of the five assigned operation codes `000` to `100` (R55, R56). -/
def Fields.opAssigned (f : Fields) : Bool := decide (f.op ≤ 4#3)

/-- For NOW (`op = 000`), `ch` must be `0` (R50, R52). -/
def Fields.nowWithoutChannel (f : Fields) : Bool := !(f.op == 0#3 && f.ch == 1#1)

/-- The fields form one of the nine legal command words (R55, R56). -/
def Fields.wellFormed (f : Fields) : Bool := f.zZero && f.opAssigned && f.nowWithoutChannel

end Sys2Proof
end

