-- ==== Sys2Proof/Decode.lean ====
section
/-! DEFINITION. Decoding a command word (30_encoding.md R50 to R58): total on all 256 words, a reserved word being
rejected by the class of R56 it belongs to; then the encoder, and the opcode table by match and mask (R55). -/

namespace Sys2Proof

/-- The fields of a command word (R50): bit 0 is the least significant bit (R8). -/
def commandFields (w : Command) : Fields :=
  { z := w.extractLsb' 4 4, ch := w.extractLsb' 3 1, op := w.extractLsb' 0 3 }

/-- The channel that the `ch` bit selects (R52): `0` selects `C[0]`, `1` selects `C[1]`. -/
def channelOfBit (b : BitVec 1) : ChanId := if b = 0#1 then .c0 else .c1

/-- The opcode map of R55 over the fields, with the reserved classes of R56. -/
def decodeFields (f : Fields) : Except Reserved Instr :=
  if f.z ≠ 0#4 then .error .zNotZero
  else if f.op = 0b000#3 then
    if f.ch = 0#1 then .ok .now else .error .nowChannelBit
  else if f.op = 0b001#3 then .ok (.update (channelOfBit f.ch))
  else if f.op = 0b010#3 then .ok (.ispressed (channelOfBit f.ch))
  else if f.op = 0b011#3 then .ok (.isshort (channelOfBit f.ch))
  else if f.op = 0b100#3 then .ok (.islong (channelOfBit f.ch))
  else .error .opUnassigned

/-- Decode a command word: the operation, or the class that makes the word reserved (R55, R56). -/
def decode (w : Command) : Except Reserved Instr := decodeFields (commandFields w)

/-- The `op` field of an operation (R55). -/
def opcode : Instr → BitVec 3
  | .now => 0b000#3
  | .update _ => 0b001#3
  | .ispressed _ => 0b010#3
  | .isshort _ => 0b011#3
  | .islong _ => 0b100#3

/-- The bit that selects a channel (R52). -/
def channelBit : ChanId → BitVec 1
  | .c0 => 0#1
  | .c1 => 1#1

/-- The `ch` field of an operation: the channel's bit, and `0` for NOW (R50, R52). -/
def channelField : Instr → BitVec 1
  | .now => 0#1
  | .update ch => channelBit ch
  | .ispressed ch => channelBit ch
  | .isshort ch => channelBit ch
  | .islong ch => channelBit ch

/-- The command word of an operation (R50, R55): `z = 0000`, then `ch`, then `op`. -/
def encode (i : Instr) : Command := 0#4 ++ channelField i ++ opcode i

/-- One row of the opcode table by match and mask: a word `w` belongs to it when `w &&& mask = word` (R55). -/
structure OpcodeRow where
  mnemonic : String
  word : Command
  mask : Command
deriving DecidableEq, Repr

/-- The opcode table of R55, whose machine-readable copy is spec/opcode_table.json. -/
def opcodeTable : List OpcodeRow :=
  [ ⟨"NOW", 0x00#8, 0xFF#8⟩,
    ⟨"UPDATE", 0x01#8, 0xF7#8⟩,
    ⟨"ISPRESSED", 0x02#8, 0xF7#8⟩,
    ⟨"ISSHORT", 0x03#8, 0xF7#8⟩,
    ⟨"ISLONG", 0x04#8, 0xF7#8⟩ ]

/-- The mnemonic of an operation (R55). -/
def Instr.mnemonic : Instr → String
  | .now => "NOW"
  | .update _ => "UPDATE"
  | .ispressed _ => "ISPRESSED"
  | .isshort _ => "ISSHORT"
  | .islong _ => "ISLONG"

/-- A word belongs to a row of the opcode table. -/
def OpcodeRow.admits (r : OpcodeRow) (w : Command) : Bool := w &&& r.mask == r.word

/-- The command word that an instruction of `nbits` bits with value `w` presents: `w`'s low `nbits` bits, and 0 above
(the host's numbering of a table row's bits, log 11). -/
def tableCommand (nbits w : Nat) : Command := BitVec.ofNat 8 (w % 2 ^ nbits)

/-- The operation the decoder reads from a table row's bits. A command is one 8-bit word (R50, R58), so a value that
needs more than 8 bits is no command. -/
def decodeTableWord (nbits w : Nat) : Option Instr :=
  if w % 2 ^ nbits < 256 then
    match decode (tableCommand nbits w) with
    | .ok i => some i
    | .error _ => none
  else none

end Sys2Proof
end

