-- ==== Sys2Proof/Config.lean ====
section
/-! DEFINITION. The block's parameters (00_scope.md R5, 10_state.md R33) and the one choice the spec leaves to the
block (20_memory.md R47). -/

namespace Sys2Proof

/-- The parameters of one channel (R5, R23). Every value is admitted (D13). -/
structure ChanParams where
  /-- `DD[ch]`, the debounce delay in ticks. -/
  debounceDelay : Tick
  /-- `LPT[ch]`, the long-press threshold in ticks. -/
  longPressThreshold : Tick
  /-- `PRESSED_LEVEL[ch]`, the pin level that means "button pressed" (OPEN in the spec, D6). -/
  pressedLevel : Level
deriving DecidableEq, Repr

/-- The parameters of the block, one record per channel (R5, R23). They are configuration: no operation and no reset
writes them (R33, R108). -/
structure Params where
  c0 : ChanParams
  c1 : ChanParams
deriving DecidableEq, Repr

/-- The reference device's delay and threshold (R5: 50,000 and 500,000 ticks), for a pin polarity that the spec leaves
open (D6) and that is therefore an argument. -/
def ChanParams.reference (pressedLevel : Level) : ChanParams :=
  { debounceDelay := 50000#64, longPressThreshold := 500000#64, pressedLevel := pressedLevel }

/-- `DD[ch]` of the device that `State.reset` describes: fixed for the device's life (R33, R108), its value left open
(R5: a claim names the value it assumes). No body: nothing evaluates it (DESIGN CHOICE, log 6; safe). -/
opaque Config.debounceDelay : ChanId → Tick

/-- `LPT[ch]` of the device that `State.reset` describes (R5; DESIGN CHOICE, log 6; safe). -/
opaque Config.longPressThreshold : ChanId → Tick

/-- `PRESSED_LEVEL[ch]` of the device that `State.reset` describes (R5, D6 OPEN; DESIGN CHOICE, log 6; safe). -/
opaque Config.pressedLevel : ChanId → Level

/-- The order of the `n`-th pair of operations requested at one instant: `true` when the bus context's is performed
first. The spec leaves the order open and a model admits both (R47, I9): a free value (DESIGN CHOICE, log 7; safe). -/
opaque Config.busFirst : Nat → Bool

/-- The parameters of channel `ch` of the device that `State.reset` describes. -/
def Config.chanParams (ch : ChanId) : ChanParams :=
  { debounceDelay := Config.debounceDelay ch
    longPressThreshold := Config.longPressThreshold ch
    pressedLevel := Config.pressedLevel ch }

/-- The parameters of the device that `State.reset` describes. -/
def Config.params : Params := { c0 := Config.chanParams .c0, c1 := Config.chanParams .c1 }

end Sys2Proof
end

