-- ==== Sys2Proof/Machine/State.lean ====
section
/-! DEFINITION. The state of the block (10_state.md R20 to R30, R107) and, marked as such, the model's own fields that
carry the ports of 00_scope.md R12; and the reasons a step can stop. -/

namespace Sys2Proof.Machine

/-- The TickSource registers (R20). -/
structure TickSource where
  /-- The sample taken by the most recent NOW, or 0 (R21). -/
  prev32 : Sample
  /-- The number of wraps NOW has detected since reset, modulo 2^32 (R22). -/
  ovf32 : WrapCount
deriving DecidableEq, Repr

/-- The registers of one ButtonChannel (R23). -/
structure Channel where
  /-- The level sampled by the most recent UPDATE on this channel (R24). -/
  rawLevel : Level
  /-- The tick at which a new raw level becomes accepted (R25). -/
  debounceDeadline : Tick
  /-- The debounced logical state (R26). -/
  pressed : Bool
  /-- The `ticks` operand of the UPDATE that accepted the most recent press (R27). -/
  pressStartTick : Tick
  /-- One-shot flag: an unread short press (R28). -/
  shortPressPending : Bool
  /-- One-shot flag: an unread long press (R29). -/
  longPressPending : Bool
deriving DecidableEq, Repr

/-- The values on the input ports of R12 that one requested operation meets: its command word, its `ticks` operand, and
the samples `cnt32` and `pin[ch]` at the moment it takes its step (R10). -/
structure Ports where
  cmd : Command
  ticks : Tick
  cnt32 : Sample
  pin0 : Level
  pin1 : Level
deriving DecidableEq, Repr

/-- What the environment presents at one instant (R12, R13): whether `rst` is asserted, the request of the main-loop
context M if it makes one, and the request of the bus context B if it makes one. -/
structure Instant where
  rst : Bool
  main : Option Ports
  bus : Option Ports
deriving DecidableEq, Repr

/-- The state. `ts`, `c0` and `c1` are the block's whole architectural state (R20); `params` is its configuration
(R33, log 6); the rest is the model's own: the ports and the environment's requests (logs 1, 4, 5, 7). -/
structure State where
  /-- The TickSource (R21, R22). -/
  ts : TickSource
  /-- Channel 0, Vol− (R23 to R29). -/
  c0 : Channel
  /-- Channel 1, Vol+ (R23 to R29). -/
  c1 : Channel
  /-- The parameters (R5): no step writes them (R33, R108). -/
  params : Params
  /-- Model's own: the input ports as the operation being performed meets them (R12, log 5). -/
  ports : Ports
  /-- Model's own: the value on `result[63:0]` delivered by the step just taken, if it delivered one (R59, log 4). -/
  result : Option Tick
  /-- Model's own: the instants the environment has still to present, in order (R31, R46, log 1). -/
  program : List Instant
  /-- Model's own: how many orders of coinciding requests have been chosen (R47, log 7). -/
  draws : Nat
deriving DecidableEq, Repr

/-- The faults of the block: none. No operation, operand value or input value causes a fault, a trap or a stuck state
(R93, R96). Nothing raises one (log 10; safe or not does not arise). -/
inductive Fault
deriving DecidableEq, Repr

/-- The refusals of the block. -/
inductive Refusal where
  /-- An instruction with no meaning in this model. Raised by no arm: every operation has its meaning. Safe. -/
  | notModelled (mnemonic : String)
  /-- A reserved command word, recorded (R94 `ReservedCommand(cmd)`, R56): raised by a step that would perform it. The
  run ends refused, with no register changed. Safe: no claim about such a run can be proved (D3). -/
  | reservedCommand (cmd : Command)
deriving DecidableEq, Repr

/-- The TickSource after RESET (R107). -/
def TickSource.afterReset : TickSource := { prev32 := 0#32, ovf32 := 0#32 }

/-- A channel after RESET: the released level, nothing pressed, nothing pending (R107). -/
def Channel.afterReset (p : ChanParams) : Channel :=
  { rawLevel := 1#1 - p.pressedLevel
    debounceDeadline := 0#64
    pressed := false
    pressStartTick := 0#64
    shortPressPending := false
    longPressPending := false }

/-- The machine right after reset of a device with parameters `p` (R107), nothing requested of it yet (logs 2, 4, 5, 7). -/
def State.resetWith (p : Params) : State :=
  { ts := TickSource.afterReset
    c0 := Channel.afterReset p.c0
    c1 := Channel.afterReset p.c1
    params := p
    ports := { cmd := 0#8, ticks := 0#64, cnt32 := 0#32, pin0 := 0#1, pin1 := 0#1 }
    result := none
    program := []
    draws := 0 }

/-- The machine right after reset (R107), of a device whose parameters are left open (R5, log 6). -/
def State.reset : State := State.resetWith Config.params

end Sys2Proof.Machine
end

