-- ==== Sys2Proof/Machine/Ops.lean ====
section
/-! DEFINITION. The named operations over the registers: selecting a channel (10_state.md R23), delivering a result
(30_encoding.md R59), RESET (70_reset_and_hazards.md R107), and the test bench's view of a register by its number
(10_state.md R30). The block has no memory (R40), and no exception to take or to return from (R93, R98). -/

namespace Sys2Proof

/-- The parameters of channel `ch` (R23). -/
def Params.chan (p : Params) : ChanId → ChanParams
  | .c0 => p.c0
  | .c1 => p.c1

end Sys2Proof

namespace Sys2Proof.Machine

/-- The registers of channel `ch` (R23). -/
def State.chan (s : State) : ChanId → Channel
  | .c0 => s.c0
  | .c1 => s.c1

/-- Replace the registers of channel `ch`, and nothing else. -/
def State.setChan (s : State) (ch : ChanId) (c : Channel) : State :=
  match ch with
  | .c0 => { s with c0 := c }
  | .c1 => { s with c1 := c }

/-- Replace the TickSource registers, and nothing else. -/
def State.setTickSource (s : State) (t : TickSource) : State := { s with ts := t }

/-- Deliver a result with the step (R59). -/
def State.deliver (s : State) (r : Tick) : State := { s with result := some r }

/-- A step that delivers no result (R59, R108). -/
def State.deliverNone (s : State) : State := { s with result := none }

/-- RESET (R107): one atomic step that sets every register to its reset value. The parameters are not changed, and no
result is returned (R108). -/
def State.applyReset (s : State) : State :=
  { s with
    ts := TickSource.afterReset
    c0 := Channel.afterReset s.params.c0
    c1 := Channel.afterReset s.params.c1
    result := none }

/-- A `Bool` register or result as a number, `zext_64` (R8, R59). -/
def zextBool (b : Bool) : Tick := if b then 1#64 else 0#64

/-- Register `k` of a channel, at `0x10 + 8·ch + k` in the numbering of R30, zero-extended to 64 bits. -/
def Channel.peek (c : Channel) : Nat → Option Tick
  | 0 => some (c.rawLevel.setWidth 64)
  | 1 => some c.debounceDeadline
  | 2 => some (zextBool c.pressed)
  | 3 => some c.pressStartTick
  | 4 => some (zextBool c.shortPressPending)
  | 5 => some (zextBool c.longPressPending)
  | _ => none

/-- A test bench's read of a register by its number (R30, R105), zero-extended to 64 bits; a number outside the table
names no register (R30, I12). No operation of the block takes a register number. -/
def State.peek (s : State) (n : Nat) : Option Tick :=
  if n = 0x00 then some (s.ts.prev32.setWidth 64)
  else if n = 0x01 then some (s.ts.ovf32.setWidth 64)
  else if 0x10 ≤ n ∧ n < 0x18 then s.c0.peek (n - 0x10)
  else if 0x18 ≤ n ∧ n < 0x20 then s.c1.peek (n - 0x18)
  else none

end Sys2Proof.Machine
end

