-- ==== Sys2Proof/Machine/ButtonQuery.lean ====
section
/-! DEFINITION. The queries ISPRESSED, ISSHORT and ISLONG (42_button_query.md R85 to R92). -/

namespace Sys2Proof.Machine

/-- ISPRESSED (R85): return the debounced logical state, and write no register. -/
def execIspressed (ch : ChanId) (s : State) : Host.Outcome State Fault Refusal :=
  .next (s.deliver (zextBool (s.chan ch).pressed))

/-- ISSHORT (R86): return the short-press flag as read before it is cleared, and clear it, in one step. -/
def execIsshort (ch : ChanId) (s : State) : Host.Outcome State Fault Refusal :=
  .next ((s.setChan ch { s.chan ch with shortPressPending := false }).deliver
    (zextBool (s.chan ch).shortPressPending))

/-- ISLONG (R87): return the long-press flag as read before it is cleared, and clear it, in one step. -/
def execIslong (ch : ChanId) (s : State) : Host.Outcome State Fault Refusal :=
  .next ((s.setChan ch { s.chan ch with longPressPending := false }).deliver
    (zextBool (s.chan ch).longPressPending))

end Sys2Proof.Machine
end

