-- ==== Sys2Proof/Machine/Operands.lean ====
section
/-! DEFINITION. The operands (30_encoding.md R54): each comes whole from a port (00_scope.md R12) and none is
sign-extended, scaled or shifted. -/

namespace Sys2Proof.Machine

/-- The level on `pin[ch]` (R12). -/
def Ports.pin (p : Ports) : ChanId → Level
  | .c0 => p.pin0
  | .c1 => p.pin1

/-- `SampleCounter()` (R10): the value on `cnt32` at this step. -/
def State.sampleCounter (s : State) : Sample := s.ports.cnt32

/-- `SamplePin(ch)` (R10): the level on `pin[ch]` at this step. -/
def State.samplePin (s : State) (ch : ChanId) : Level := s.ports.pin ch

/-- The `ticks` operand of UPDATE (R54). -/
def State.ticksOperand (s : State) : Tick := s.ports.ticks

/-- `{ovf32, s}`: the overflow counter in bits 63:32 and the sample in bits 31:0 (R8, R41, R63). -/
def composeTick (ovf : WrapCount) (s : Sample) : Tick := ovf ++ s

end Sys2Proof.Machine
end

