-- ==== Sys2Proof/Machine/Flags.lean ====
section
/-! DEFINITION. The conditions the operations compute: the logical value of a pin level (00_scope.md R11), a
channel's derived phase (10_state.md R32), the deadline comparator (41_button_update.md R72) and the duration
classifier (41_button_update.md R75, R76). -/

namespace Sys2Proof.Machine

/-- `active(ch, r)` (R11): the level means "pressed". -/
def active (p : ChanParams) (r : Level) : Bool := decide (r = p.pressedLevel)

/-- The named states of a channel (R32; the middle one spelled as C3 resolves). -/
inductive Phase where
  | released
  | debouncingEdge
  | pressed
deriving DecidableEq, Repr

/-- `phase(ch)`, derived from the registers and not stored (R32). -/
def Channel.phase (p : ChanParams) (c : Channel) : Phase :=
  if active p c.rawLevel ≠ c.pressed then .debouncingEdge
  else if c.pressed then .pressed
  else .released

/-- The deadline comparator: the stored raw level is accepted as the new logical state when the deadline is reached
(unsigned and inclusive) and the level's logical value differs from `pressed` (R72). -/
def Channel.accepts (p : ChanParams) (c : Channel) (t : Tick) : Bool :=
  decide (c.debounceDeadline ≤ t) && decide (active p c.rawLevel ≠ c.pressed)

/-- The duration classifier: a release accepted at tick `t` ends a long press when `t` has reached the press's tick plus
the threshold, the boundary included (R75, R76; C1 and D7). -/
def Channel.heldLong (p : ChanParams) (c : Channel) (t : Tick) : Bool :=
  decide (c.pressStartTick + p.longPressThreshold ≤ t)

end Sys2Proof.Machine
end

