-- ==== Sys2Proof/Machine/ButtonUpdate.lean ====
section
/-! DEFINITION. UPDATE (41_button_update.md R70 to R84), by its parts: level filter, deadline comparator and edge
detector, duration classifier. -/

namespace Sys2Proof.Machine

/-- The level filter (R71): store the sample, and restart the debounce window when it differs from the stored level. -/
def Channel.filter (p : ChanParams) (c : Channel) (t : Tick) (r : Level) : Channel :=
  { c with
    rawLevel := r
    debounceDeadline := if r ≠ c.rawLevel then t + p.debounceDelay else c.debounceDeadline }

/-- The press edge (R73): three writes, the re-armed deadline among them, and no pending flag. -/
def Channel.press (p : ChanParams) (c : Channel) (t : Tick) : Channel :=
  { c with
    pressed := true
    pressStartTick := t
    debounceDeadline := t + p.longPressThreshold }

/-- The release edge (R74): `pressed` is cleared and exactly one pending flag is set, the other left as it was (R77). -/
def Channel.release (p : ChanParams) (c : Channel) (t : Tick) : Channel :=
  { c with
    pressed := false
    longPressPending := c.heldLong p t || c.longPressPending
    shortPressPending := !(c.heldLong p t) || c.shortPressPending }

/-- The edge detector (R72 to R74): on an acceptance, a press or a release by the old logical state; otherwise nothing. -/
def Channel.accept (p : ChanParams) (c : Channel) (t : Tick) : Channel :=
  if c.accepts p t then
    if c.pressed then c.release p t else c.press p t
  else c

/-- One UPDATE of a channel with operand `t` and sampled level `r` (R70): the comparator sees the deadline that the
filter may just have written (R9). -/
def Channel.update (p : ChanParams) (c : Channel) (t : Tick) (r : Level) : Channel :=
  (c.filter p t r).accept p t

/-- UPDATE (R70): advance channel `ch` by one sample; the result is 0 and carries no information (R59). -/
def execUpdate (ch : ChanId) (s : State) : Host.Outcome State Fault Refusal :=
  .next ((s.setChan ch
    ((s.chan ch).update (s.params.chan ch) s.ticksOperand (s.samplePin ch))).deliver 0#64)

end Sys2Proof.Machine
end

