-- ==== Sys2Proof/Machine/TickSource.lean ====
section
/-! DEFINITION. NOW (40_tick_source.md R63 to R68). -/

namespace Sys2Proof.Machine

/-- The TickSource after it takes the sample `s`: a numerically smaller sample is a wrap and increments the overflow
counter modulo 2^32; `s` becomes the previous sample (R63). -/
def TickSource.sample (t : TickSource) (s : Sample) : TickSource :=
  { prev32 := s
    ovf32 := if s < t.prev32 then t.ovf32 + 1#32 else t.ovf32 }

/-- The 64-bit tick that the TickSource stands at: the overflow counter over the last sample (R63). -/
def TickSource.tick (t : TickSource) : Tick := composeTick t.ovf32 t.prev32

/-- NOW (R63): sample the counter, count a wrap, return the tick composed from the incremented counter. -/
def execNow (s : State) : Host.Outcome State Fault Refusal :=
  .next ((s.setTickSource (s.ts.sample s.sampleCounter)).deliver (s.ts.sample s.sampleCounter).tick)

end Sys2Proof.Machine
end

