-- ==== Sys2Proof/Machine/Dispatch.lean ====
section
/-! DEFINITION. One arm per operation (30_encoding.md R55). -/

namespace Sys2Proof.Machine

def exec (i : Instr) (s : State) : Host.Outcome State Fault Refusal :=
  match i with
  | .now => Sys2Proof.Machine.execNow s
  | .update ch => Sys2Proof.Machine.execUpdate ch s
  | .ispressed ch => Sys2Proof.Machine.execIspressed ch s
  | .isshort ch => Sys2Proof.Machine.execIsshort ch s
  | .islong ch => Sys2Proof.Machine.execIslong ch s

end Sys2Proof.Machine
end

