-- ==== Sys2Proof/Machine/Environment.lean ====
section
/-! DEFINITION. How the environment's requests reach the block: what the next step has to do (00_scope.md R13,
20_memory.md R46, R47, 60_exceptions.md R99, 70_reset_and_hazards.md R108). It plays the part that fetching plays in a
machine with a program counter, which this block has not (10_state.md R31). -/

namespace Sys2Proof.Machine

/-- What the next step does, and the state it does it in (the request taken off the program). -/
inductive Turn where
  /-- Nothing is requested. -/
  | idle (s : State)
  /-- `rst` is asserted. -/
  | reset (s : State)
  /-- One operation is performed, with these values on its ports. -/
  | operation (p : Ports) (s : State)
deriving DecidableEq, Repr

/-- `s` with `rest` still to be presented. -/
def State.withProgram (s : State) (rest : List Instant) : State := { s with program := rest }

/-- `s` with one more order of coinciding requests chosen (R47, log 7). -/
def State.drawn (s : State) : State := { s with draws := s.draws + 1 }

/-- The next turn of two requests made at one instant: the block performs them one after the other in an order the spec
leaves open (R47), which the free value `Config.busFirst` picks; the other request stays at the head (log 7, 8). -/
def State.arbitrate (s : State) (m b : Ports) (rest : List Instant) : Turn :=
  if Config.busFirst s.draws then
    .operation b (s.drawn.withProgram ({ rst := false, main := some m, bus := none } :: rest))
  else
    .operation m (s.drawn.withProgram ({ rst := false, main := none, bus := some b } :: rest))

/-- The next turn: the head of the program decides. Reset takes precedence over any operation requested at the same
instant, which is then not performed (R99, R108); a reserved word requested at that instant is discarded with it and not
refused (DESIGN CHOICE, log 16). With nothing requested the block does nothing: it never initiates an operation itself
(R13, log 3). -/
def State.nextTurn (s : State) : Turn :=
  match s.program with
  | [] => .idle s
  | e :: rest =>
    if e.rst then .reset (s.withProgram rest)
    else
      match e.main, e.bus with
      | none, none => .idle (s.withProgram rest)
      | some m, none => .operation m (s.withProgram rest)
      | none, some b => .operation b (s.withProgram rest)
      | some m, some b => s.arbitrate m b rest

/-- Present an operation's port values to it (R12). -/
def State.present (s : State) (p : Ports) : State := { s with ports := p }

/-- Place one request of the main loop in front of the program, with command word `w` and the other ports as they
stand. -/
def State.request (s : State) (w : Command) : State :=
  s.withProgram ({ rst := false, main := some { s.ports with cmd := w }, bus := none } :: s.program)

end Sys2Proof.Machine
end

