-- ==== Sys2Proof/Machine/Step.lean ====
section
/-! DEFINITION. One atomic step of the block (00_scope.md R2, 20_memory.md R45): take the environment's next turn,
decode, perform. -/

namespace Sys2Proof.Machine

/-- Perform the operation whose ports are `p`: a legal command word runs, a reserved one is refused and recorded (R94). -/
def State.perform (s : State) (p : Ports) : Host.Outcome State Fault Refusal :=
  match decode p.cmd with
  | .ok i => exec i (s.present p)
  | .error _ => .refused (.reservedCommand p.cmd)

/-- One step: an idle instant, a RESET, or one whole operation (R45, R46, R107). -/
def step (s : State) : Host.Outcome State Fault Refusal :=
  match s.nextTurn with
  | .idle t => .next t.deliverNone
  | .reset t => .next t.applyReset
  | .operation p t => t.perform p

/-- `s` with the instruction whose bits are `w` requested as its very next operation (the main loop's, log 2, 11). -/
def State.withFetchWord (s : State) (nbits w : Nat) : State := s.request (tableCommand nbits w)

end Sys2Proof.Machine
end

