-- ==== Sys2Proof/Machine/Assembler.lean ====
section
/-! DEFINITION. The spec's assembler syntax (30_encoding.md R60), its pseudo-operations `poll` and `status` (R61, R62),
and the contexts' side of a program (10_state.md R31): each line is placed in front of the block as one request and
performed. Nothing here is part of the block; a line's context is not checked by it (60_exceptions.md R100). -/

namespace Sys2Proof.Machine

/-- The contexts that issue operations (R13): the main loop M and the bus handler B. -/
inductive Context where
  | main
  | bus
deriving DecidableEq, Repr

/-- The sampled level as a program names it, whatever the polarity (R60): `pin=A` or `pin=I`. -/
inductive PinArg where
  | active
  | inactive
deriving DecidableEq, Repr

/-- The `ticks` operand as a program names it (R60): a number, or `t`, the result of the most recent `now` in the same
context. -/
inductive TickArg where
  | literal (t : Tick)
  | lastNow
deriving DecidableEq, Repr

/-- An operation with the inputs its line gives it (R60). -/
inductive AsmOp where
  | now (cnt32 : Sample)
  | update (ch : ChanId) (ticks : TickArg) (pin : PinArg)
  | ispressed (ch : ChanId)
  | isshort (ch : ChanId)
  | islong (ch : ChanId)
deriving DecidableEq, Repr

/-- One line of a program (R60): the issuing context and the operation. -/
structure AsmLine where
  ctx : Context
  op : AsmOp
deriving DecidableEq, Repr

/-- The operation a line stands for. -/
def AsmOp.instr : AsmOp → Instr
  | .now _ => .now
  | .update ch _ _ => .update ch
  | .ispressed ch => .ispressed ch
  | .isshort ch => .isshort ch
  | .islong ch => .islong ch

/-- The level that `pin=A` or `pin=I` stands for (R60). -/
def PinArg.level (p : ChanParams) : PinArg → Level
  | .active => p.pressedLevel
  | .inactive => 1#1 - p.pressedLevel

/-- The pseudo-operation `poll` (R61): one iteration of the main loop. -/
def poll (cnt32 : Sample) (pin0 pin1 : PinArg) : List AsmLine :=
  [ ⟨.main, .now cnt32⟩, ⟨.main, .update .c0 .lastNow pin0⟩, ⟨.main, .update .c1 .lastNow pin1⟩ ]

/-- The pseudo-operation `status` (R62): the bus handler's six queries for one status byte. -/
def status : List AsmLine :=
  [ ⟨.bus, .ispressed .c0⟩, ⟨.bus, .isshort .c0⟩, ⟨.bus, .islong .c0⟩,
    ⟨.bus, .ispressed .c1⟩, ⟨.bus, .isshort .c1⟩, ⟨.bus, .islong .c1⟩ ]

/-- The status byte of the six results of `status`, in order from bit 0; bits 7:6 are 0 (R62). -/
def statusByte (results : List Tick) : BitVec 8 :=
  (results.take 6).foldr (fun r b => (b <<< 1) ||| r.setWidth 8) 0#8

/-- The most recent NOW result of each context, which an operand `t` stands for (R60). -/
structure NowResults where
  main : Option Tick
  bus : Option Tick
deriving DecidableEq, Repr

/-- The most recent NOW result of a context. -/
def NowResults.of (n : NowResults) : Context → Option Tick
  | .main => n.main
  | .bus => n.bus

/-- The NOW results after a context's NOW. -/
def NowResults.set (n : NowResults) (c : Context) (r : Option Tick) : NowResults :=
  match c with
  | .main => { n with main := r }
  | .bus => { n with bus := r }

/-- The value of a `ticks` operand; `t` before any `now` of the context stands for nothing (log 12). -/
def TickArg.value (last : Option Tick) : TickArg → Option Tick
  | .literal t => some t
  | .lastNow => last

/-- Set the level on `pin[ch]`. -/
def Ports.setPin (p : Ports) (ch : ChanId) (r : Level) : Ports :=
  match ch with
  | .c0 => { p with pin0 := r }
  | .c1 => { p with pin1 := r }

/-- The port values a line asks for; a port its operation ignores (R54) keeps its value. -/
def AsmOp.ports (par : Params) (last : Option Tick) (base : Ports) : AsmOp → Option Ports
  | .now c => some { base with cmd := encode .now, cnt32 := c }
  | .update ch t pin =>
    (t.value last).map fun v =>
      ({ base with cmd := encode (.update ch), ticks := v }).setPin ch (pin.level (par.chan ch))
  | .ispressed ch => some { base with cmd := encode (.ispressed ch) }
  | .isshort ch => some { base with cmd := encode (.isshort ch) }
  | .islong ch => some { base with cmd := encode (.islong ch) }

/-- The instant at which a context makes one request. -/
def Context.instant (c : Context) (p : Ports) : Instant :=
  match c with
  | .main => { rst := false, main := some p, bus := none }
  | .bus => { rst := false, main := none, bus := some p }

/-- The NOW results after a line delivered `r`. -/
def NowResults.after (n : NowResults) (l : AsmLine) (r : Option Tick) : NowResults :=
  match l.op with
  | .now _ => n.set l.ctx r
  | _ => n

/-- Issue the lines of a program in order, each as the block's next request; the state after the last one and the
results (R31, R60). None if a line has no value for its operand or the block stops. -/
def runProgram : List AsmLine → NowResults → State → Option (State × List Tick)
  | [], _, s => some (s, [])
  | l :: ls, n, s =>
    match l.op.ports s.params (n.of l.ctx) s.ports with
    | none => none
    | some p =>
      match step (s.withProgram (l.ctx.instant p :: s.program)) with
      | .next t =>
        match runProgram ls (n.after l t.result) t with
        | some (u, rs) => some (u, t.result.toList ++ rs)
        | none => none
      | _ => none

/-! The text of a line (R60), read from its characters. -/

/-- A character in lower case: mnemonics are case-insensitive (R60), and here so is the whole line (log 17). -/
def lowerChar (c : Char) : Char := if 'A' ≤ c ∧ c ≤ 'Z' then Char.ofNat (c.toNat + 32) else c

/-- Close the word being read. -/
def closeWord (word : List Char) (rest : List (List Char)) : List (List Char) :=
  if word.isEmpty then rest else word.reverse :: rest

/-- The words and marks of a line: blanks separate, and each of `, ; = :` stands alone. R60 makes the mnemonics
case-insensitive and is silent on the rest of a line; here every word is folded to lower case (DESIGN CHOICE, log 17). -/
def tokens : List Char → List Char → List (List Char)
  | [], word => closeWord word []
  | c :: cs, word =>
    if c = ' ' ∨ c = '\t' then closeWord word (tokens cs [])
    else if c = ',' ∨ c = ';' ∨ c = '=' ∨ c = ':' then closeWord word ([c] :: tokens cs [])
    else tokens cs (lowerChar c :: word)

/-- The value of a digit in the given base. -/
def digitValue (base : Nat) (c : Char) : Option Nat :=
  let v := if '0' ≤ c ∧ c ≤ '9' then c.toNat - 48
    else if 'a' ≤ c ∧ c ≤ 'f' then c.toNat - 87
    else base
  if v < base then some v else none

/-- Read digits; `_` may separate digit groups (R60). A `_` is skipped wherever it stands, also before, after or beside
another (DESIGN CHOICE, log 17). -/
def digits (base : Nat) : List Char → Nat → Option Nat
  | [], acc => some acc
  | c :: cs, acc =>
    if c = '_' then digits base cs acc
    else (digitValue base c).bind fun d => digits base cs (acc * base + d)

/-- A number: decimal, or hexadecimal with `0x` (R60); a number holds at least one digit. -/
def number : List Char → Option Nat
  | '0' :: 'x' :: ds => if ds.all (· = '_') then none else digits 16 ds 0
  | ds => if ds.all (· = '_') then none else digits 10 ds 0

/-- A number that fits in `w` bits. -/
def numberOfWidth (w : Nat) (ds : List Char) : Option (BitVec w) :=
  (number ds).bind fun n => if n < 2 ^ w then some (BitVec.ofNat w n) else none

/-- `c0` or `c1` (R60). -/
def channelWord : List Char → Option ChanId
  | ['c', '0'] => some .c0
  | ['c', '1'] => some .c1
  | _ => none

/-- `A` or `I` (R60). -/
def pinWord : List Char → Option PinArg
  | ['a'] => some .active
  | ['i'] => some .inactive
  | _ => none

/-- A `ticks` operand: `t` or a number of 64 bits (R60). -/
def tickWord : List Char → Option TickArg
  | ['t'] => some .lastNow
  | ds => (numberOfWidth 64 ds).map .literal

/-- The operation of a line's words. -/
def parseOp : List (List Char) → Option AsmOp
  | [['n', 'o', 'w'], [';'], ['c', 'n', 't', '3', '2'], ['='], n] => (numberOfWidth 32 n).map .now
  | [['u', 'p', 'd', 'a', 't', 'e'], c, [','], t, [';'], ['p', 'i', 'n'], ['='], v] =>
    (channelWord c).bind fun ch => (tickWord t).bind fun a => (pinWord v).map fun r => .update ch a r
  | [['i', 's', 'p', 'r', 'e', 's', 's', 'e', 'd'], c] => (channelWord c).map .ispressed
  | [['i', 's', 's', 'h', 'o', 'r', 't'], c] => (channelWord c).map .isshort
  | [['i', 's', 'l', 'o', 'n', 'g'], c] => (channelWord c).map .islong
  | _ => none

/-- A line: an optional `M:` or `B:` naming the context, then the operation (R60). A line that names no context is taken
as the main loop's, which the block cannot tell apart (R100; DESIGN CHOICE, log 12). -/
def parseWords : List (List Char) → Option AsmLine
  | ['m'] :: [':'] :: ws => (parseOp ws).map fun o => ⟨.main, o⟩
  | ['b'] :: [':'] :: ws => (parseOp ws).map fun o => ⟨.bus, o⟩
  | ws => (parseOp ws).map fun o => ⟨.main, o⟩

/-- Read one line of a program from its characters (R60). -/
def parseLine (text : List Char) : Option AsmLine := parseWords (tokens text [])

end Sys2Proof.Machine
end

