-- ==== Sys2Proof/Safety.lean ====
section
/-! DEFINITION. The terms in which statements about runs are made: what the next step performs, runs that keep a
condition, which programs are legal, what the past of a run fixes, and which differences cannot be observed. -/

namespace Sys2Proof.Machine

/-- The operation that the next step performs and the ports it meets, if the next step performs an operation. -/
def State.nextOp (s : State) : Option (Instr × Ports) :=
  match s.nextTurn with
  | .operation p _ =>
    match decode p.cmd with
    | .ok i => some (i, p)
    | .error _ => none
  | _ => none

/-- The next step is a RESET. -/
def State.resetsNext (s : State) : Bool :=
  match s.nextTurn with
  | .reset _ => true
  | _ => false

/-- Some number of steps, possibly none, lead from one state to another, and `P` holds of every state a step is taken
from. -/
inductive RunWhile (P : State → Prop) : State → State → Prop
  | done (s : State) : RunWhile P s s
  | more {s t u : State} : P s → step s = .next t → RunWhile P t u → RunWhile P s u

/-- The next step is neither a NOW nor a RESET. -/
def State.noNowNoReset (s : State) : Prop := s.resetsNext = false ∧ ∀ p, s.nextOp ≠ some (.now, p)

/-- The next step is no RESET, and no operation `i`. -/
def State.noResetNo (i : Instr) (s : State) : Prop := s.resetsNext = false ∧ ∀ p, s.nextOp ≠ some (i, p)

/-- A NOW that the next step performs, if any, does not wrap the overflow counter from 2^32 − 1 to 0 (R66), and the next
step is no RESET. -/
def State.beforeHorizon (s : State) : Prop :=
  s.resetsNext = false ∧
    ∀ p, s.nextOp = some (.now, p) → ¬ (p.cnt32 < s.ts.prev32 ∧ s.ts.ovf32 = 0xFFFFFFFF#32)

/-- The next step is no RESET, and an UPDATE of `ch` that it performs satisfies `Q` of the port values. -/
def State.updatesOnly (ch : ChanId) (Q : Ports → Prop) (s : State) : Prop :=
  s.resetsNext = false ∧ ∀ p, s.nextOp = some (.update ch, p) → Q p

/-- The next step accepts a release on `ch` (R74): it is an UPDATE of `ch` that clears `pressed`. -/
def State.releasesNext (ch : ChanId) (s : State) : Prop :=
  ∃ p t, s.nextOp = some (.update ch, p) ∧ step s = .next t ∧
    (s.chan ch).pressed = true ∧ (t.chan ch).pressed = false

/-! ### Legal programs (R56, R94: software never presents a reserved word) -/

/-- The request presents a legal command word. -/
def Ports.legal (p : Ports) : Bool := (decode p.cmd).isOk

/-- Every request made at the instant is legal, or a RESET discards it (R108; of a reserved word,
log 16). -/
def Instant.legal (e : Instant) : Bool := e.rst || (e.main.all Ports.legal && e.bus.all Ports.legal)

/-- The environment presents no reserved word in what it has still to present. -/
def State.legalProgram (s : State) : Bool := s.program.all Instant.legal

/-! ### What the past of a run fixes -/

/-- What the past since the last RESET fixes of one channel: the level that the most recent UPDATE sampled, the operand
of the last UPDATE that saw a raw change (`t_c` of R81), and that of the one that accepted the most recent press. -/
structure ChanHistory where
  lastLevel : Option Level
  lastChange : Option Tick
  lastPress : Option Tick
deriving DecidableEq, Repr

/-- What the past since the last RESET fixes of the block: NOW's last sample, the number of wraps, and the channels. -/
structure History where
  lastSample : Option Sample
  wraps : Nat
  c0 : ChanHistory
  c1 : ChanHistory
deriving DecidableEq, Repr

/-- The past of one channel right after a RESET: nothing yet. -/
def ChanHistory.empty : ChanHistory := { lastLevel := none, lastChange := none, lastPress := none }

/-- The past right after a RESET: nothing yet. -/
def History.empty : History :=
  { lastSample := none, wraps := 0, c0 := ChanHistory.empty, c1 := ChanHistory.empty }

/-- The past of channel `ch`. -/
def History.chan (h : History) : ChanId → ChanHistory
  | .c0 => h.c0
  | .c1 => h.c1

/-- Replace the past of channel `ch`. -/
def History.setChan (h : History) (ch : ChanId) (c : ChanHistory) : History :=
  match ch with
  | .c0 => { h with c0 := c }
  | .c1 => { h with c1 := c }

/-- The past after one more NOW with sample `x`: a sample below the previous one (0 at first) is a wrap (R63). -/
def History.afterNow (h : History) (x : Sample) : History :=
  { h with
    lastSample := some x
    wraps := if x < h.lastSample.getD 0#32 then h.wraps + 1 else h.wraps }

/-- The past of a channel after one more UPDATE with operand `t` and sampled level `r`, which accepted a press or not;
before any UPDATE the level counts as the released one (R24). -/
def ChanHistory.afterUpdate (h : ChanHistory) (p : ChanParams) (t : Tick) (r : Level) (pressAccepted : Bool) :
    ChanHistory :=
  { lastLevel := some r
    lastChange := if r ≠ h.lastLevel.getD (1#1 - p.pressedLevel) then some t else h.lastChange
    lastPress := if pressAccepted then some t else h.lastPress }

/-- The past after the step from `s` to `t`. -/
def History.after (h : History) (s t : State) : History :=
  if s.resetsNext then History.empty
  else
    match s.nextOp with
    | some (.now, p) => h.afterNow p.cnt32
    | some (.update ch, p) =>
      h.setChan ch ((h.chan ch).afterUpdate (s.params.chan ch) p.ticks (p.pin ch)
        (!(s.chan ch).pressed && (t.chan ch).pressed))
    | _ => h

/-- The registers hold what their rules say they hold of the past: the last sample (R21), the wraps modulo 2^32 (R22),
the last sampled levels (R24), the ticks of the last accepted presses (R27), and in a debounce window the restart's tick
plus the delay (R81). -/
def State.recordsPast (s : State) (h : History) : Prop :=
  s.ts.prev32 = h.lastSample.getD 0#32 ∧
  s.ts.ovf32 = BitVec.ofNat 32 h.wraps ∧
  ∀ ch,
    (s.chan ch).rawLevel = (h.chan ch).lastLevel.getD (1#1 - (s.params.chan ch).pressedLevel) ∧
    (s.chan ch).pressStartTick = (h.chan ch).lastPress.getD 0#64 ∧
    ((s.chan ch).phase (s.params.chan ch) = .debouncingEdge →
      ∃ tc, (h.chan ch).lastChange = some tc ∧
        (s.chan ch).debounceDeadline = tc + (s.params.chan ch).debounceDelay)

/-! ### True time (R65, D16) -/

/-- The wraps lost by NOWs at the given true times, in microseconds since RESET, the one before them at `e` (R65). -/
def lostWraps : Nat → List Nat → Nat
  | _, [] => 0
  | e, e' :: es => (e' - e) / 2 ^ 32 + lostWraps e' es

/-- A run from one state to another in which, besides other steps that are no RESET, the NOWs are performed at the given
true times, each with the counter presenting the time modulo 2^32 (D16). -/
inductive NowsAt : State → List Nat → State → Prop
  | done {s t : State} : RunWhile State.noNowNoReset s t → NowsAt s [] t
  | now {s t u v : State} {p : Ports} {e : Nat} {es : List Nat} :
      RunWhile State.noNowNoReset s t → t.nextOp = some (.now, p) → p.cnt32 = BitVec.ofNat 32 e →
      step t = .next u → NowsAt u es v → NowsAt s (e :: es) v

/-! ### What cannot be observed -/

/-- Two channels differ at most in the deadline, and in that only outside a debounce window (R80). -/
def Channel.sameButSettledDeadline (p : ChanParams) (c d : Channel) : Prop :=
  { c with debounceDeadline := d.debounceDeadline } = d ∧
    (c.phase p = .debouncingEdge → c.debounceDeadline = d.debounceDeadline)

/-- Two states differ at most in deadlines of channels outside a debounce window (R80). -/
def State.sameButSettledDeadlines (s t : State) : Prop :=
  s.ts = t.ts ∧ s.params = t.params ∧ s.ports = t.ports ∧ s.result = t.result ∧ s.program = t.program ∧
    s.draws = t.draws ∧ ∀ ch, (s.chan ch).sameButSettledDeadline (s.params.chan ch) (t.chan ch)

/-- `k` steps. -/
def runSteps : Nat → State → Host.Outcome State Fault Refusal
  | 0, s => .next s
  | k + 1, s =>
    match step s with
    | .next t => runSteps k t
    | .fault f => .fault f
    | .refused r => .refused r

end Sys2Proof.Machine
end

