-- ==== Sys2Proof/Certificates/Slice0/Obligations.lean ====
section
/-! DEFINITION. The statements for the provers. Each docstring names the rule of spec/ it formalises; where the rule is
an inference the spec marks as its own ([derived: …]) the docstring says so and quotes its sentence. -/

section

open Sys2Proof Sys2Proof.Machine

/-! ### Encoding -/

/-- R50, R55: the decoder and the encoder agree in both directions. -/
def Obligations.DecodeEncodeAgree : Prop :=
  (∀ i, decode (encode i) = .ok i) ∧ ∀ w i, decode w = .ok i → encode i = w

/-- R55: the opcode map; exactly these nine words are legal, each with its operation. -/
def Obligations.OpcodeMapNineWords : Prop :=
  ∀ w i, decode w = .ok i ↔
    (w, i) ∈ ([ (0x00#8, .now), (0x01#8, .update .c0), (0x02#8, .ispressed .c0), (0x03#8, .isshort .c0),
      (0x04#8, .islong .c0), (0x09#8, .update .c1), (0x0A#8, .ispressed .c1), (0x0B#8, .isshort .c1),
      (0x0C#8, .islong .c1) ] : List (Command × Instr))

/-- R56: the three classes of reserved words, 247 words in all, and a step that would perform one is refused with the
word recorded. -/
def Obligations.ReservedWordsRefused : Prop :=
  (∀ w, decode w = .error .zNotZero ↔ 0x10#8 ≤ w) ∧
  (∀ w, decode w = .error .opUnassigned ↔ w ∈ [0x05#8, 0x06#8, 0x07#8, 0x0D#8, 0x0E#8, 0x0F#8]) ∧
  (∀ w, decode w = .error .nowChannelBit ↔ w = 0x08#8) ∧
  ((List.range 256).filter fun n => !(decode (BitVec.ofNat 8 n)).isOk).length = 247 ∧
  ∀ s p t e, s.nextTurn = .operation p t → decode p.cmd = .error e →
    step s = .refused (.reservedCommand p.cmd)

/-- R94: a run that presents a reserved word is marked refused for the whole run: from that step on, however many more
steps are asked for, the outcome is the refusal, and no state answers. (A reserved word that a RESET discards starts no
operation: log 16.) -/
def Obligations.RefusalMarksTheRun : Prop :=
  ∀ (k m : Nat) (s t u : State) (p : Ports) (e : Reserved),
    runSteps k s = .next t → t.nextTurn = .operation p u → decode p.cmd = .error e →
      runSteps (k + 1 + m) s = .refused (.reservedCommand p.cmd)

/-! ### The step -/

/-- R2, R45: a step whose turn is an operation with a legal command word is that operation's meaning, on the state with
the request taken off the program and its values on the ports. -/
def Obligations.StepRunsDecodedOperation : Prop :=
  (∀ (s : State) (p : Ports) (rest : List Instant) (i : Instr),
    (s.program = ⟨false, some p, none⟩ :: rest ∨ s.program = ⟨false, none, some p⟩ :: rest) →
    decode p.cmd = .ok i → step s = exec i ((s.withProgram rest).present p)) ∧
  ∀ (s t : State) (p : Ports) (i : Instr),
    s.nextTurn = .operation p t → decode p.cmd = .ok i → step s = exec i (t.present p)

/-- R13 ("The block itself never initiates an operation."), log 3: with nothing requested a step changes no register
and delivers no result. -/
def Obligations.IdleStepChangesNoRegister : Prop :=
  (∀ s : State, s.program = [] → step s = .next s.deliverNone) ∧
  ∀ (s : State) (rest : List Instant),
    s.program = ⟨false, none, none⟩ :: rest → step s = .next (s.withProgram rest).deliverNone

/-- R93: every step answers a next state, or refuses a reserved word; there is no fault. -/
def Obligations.StepCompletesOrRefusesReserved : Prop :=
  ∀ s : State, (∃ t, step s = .next t) ∨
    ∃ p u e, s.nextTurn = .operation p u ∧ decode p.cmd = .error e ∧
      step s = .refused (.reservedCommand p.cmd)

/-- R96 ("The only illegal input is a reserved command word (rule R94)"), an inference the spec marks as its own: a
program that presents no reserved word is never stopped, whatever the samples, ticks, contexts and resets. (One that a
RESET discards stops nothing either: the model's choice, log 16.) -/
def Obligations.LegalProgramNeverStops : Prop :=
  ∀ (k : Nat) (s : State), s.legalProgram = true → ∃ t, runSteps k s = .next t

/-- R94 ("Software never presents one."): that the environment presents no reserved word in what is still to come is
kept by every step (that these requests are data of the state is the model's, log 1; that one a RESET discards counts as
none is its choice, log 16). -/
def Obligations.LegalProgramKept : Prop :=
  ∀ s t : State, s.legalProgram = true → step s = .next t → t.legalProgram = true

/-- Logs 2 and 6: at reset nothing is listed, so the program is legal. -/
def Obligations.ResetProgramLegal : Prop := State.reset.legalProgram = true

/-- R46: the operations of the contexts take effect in a single total order, each on the state left by those before it:
a program of legal requests, one an instant, runs as its operations one after the other. -/
def Obligations.OperationsTakeEffectInOrder : Prop :=
  ∀ (xs : List (Context × Ports × Instr)) (rest : List Instant) (s : State),
    (∀ x ∈ xs, decode x.2.1.cmd = .ok x.2.2) →
    s.program = (xs.map fun x => x.1.instant x.2.1) ++ rest →
    runSteps xs.length s =
      xs.foldl
        (fun o x =>
          match o with
          | .next u => exec x.2.2 (u.present x.2.1)
          | stopped => stopped)
        (.next (s.withProgram rest))

/-- R47 ("the block performs them one after the other, in an order it does not specify", "Neither request is lost or
merged."), log 7: two legal requests made at one instant are both performed, the second on the state the first left, in
one of the two orders. -/
def Obligations.CoincidingRequestsBothPerformed : Prop :=
  ∀ (s : State) (m b : Ports) (rest : List Instant) (i j : Instr),
    s.program = ⟨false, some m, some b⟩ :: rest → decode m.cmd = .ok i → decode b.cmd = .ok j →
    (∃ u v, step s = .next u ∧ step u = .next v ∧
      exec i ((s.drawn.withProgram (⟨false, none, some b⟩ :: rest)).present m) = .next u ∧
      exec j ((u.withProgram rest).present b) = .next v) ∨
    (∃ u v, step s = .next u ∧ step u = .next v ∧
      exec j ((s.drawn.withProgram (⟨false, some m, none⟩ :: rest)).present b) = .next u ∧
      exec i ((u.withProgram rest).present m) = .next v)

/-- R100, D12: the block behaves alike whichever context issues an operation. -/
def Obligations.ContextIsNotChecked : Prop :=
  ∀ (s : State) (p : Ports) (rest : List Instant),
    step (s.withProgram (⟨false, some p, none⟩ :: rest)) =
      step (s.withProgram (⟨false, none, some p⟩ :: rest))

/-! ### NOW -/

/-- R63: NOW's next state, whole: the wrap test, the counter's increment modulo 2^32, the previous sample and the result
`(zext_64(ovf32) << 32) | zext_64(s)` after the increment; nothing else changes. -/
def Obligations.NowResult : Prop :=
  ∀ s : State, exec .now s = .next
    { s with
      ts :=
        { prev32 := s.ports.cnt32
          ovf32 := if s.ports.cnt32 < s.ts.prev32 then s.ts.ovf32 + 1#32 else s.ts.ovf32 }
      result := some
        (((if s.ports.cnt32 < s.ts.prev32 then s.ts.ovf32 + 1#32 else s.ts.ovf32).setWidth 64 <<< 32) |||
          s.ports.cnt32.setWidth 64) }

/-- R64 ("Then `r2 >=u r1`, unless the second NOW incremented `TS.ovf32` from `0xFFFFFFFF` to `0`", "Equality holds
exactly when the two samples are equal"), an inference the spec marks as its own: two NOWs with no reset and no other
NOW between them, whatever else runs between them. -/
def Obligations.ConsecutiveNowsMonotone : Prop :=
  ∀ (s s1 s2 : State) (p1 p2 : Ports) (r1 : Tick),
    s.nextOp = some (.now, p1) → step s = .next s1 → s1.result = some r1 →
    RunWhile State.noNowNoReset s1 s2 → s2.nextOp = some (.now, p2) →
    ∃ s3 r2, step s2 = .next s3 ∧ s3.result = some r2 ∧
      (r1 = r2 ↔ p1.cnt32 = p2.cnt32) ∧
      (¬ (s2.ts.ovf32 = 0xFFFFFFFF#32 ∧ s3.ts.ovf32 = 0#32) → r1 ≤ r2)

/-- R64 ("the results of any sequence of NOWs are non-decreasing, whatever the samples"), an inference the spec marks as
its own: any two NOWs of a run with no reset in which the overflow counter does not wrap (R66). -/
def Obligations.NowSequenceNonDecreasing : Prop :=
  ∀ (s s1 s2 s3 : State) (p1 p2 : Ports) (r1 r2 : Tick),
    s.nextOp = some (.now, p1) → step s = .next s1 → s1.result = some r1 →
    RunWhile State.beforeHorizon s1 s2 → State.beforeHorizon s2 →
    s2.nextOp = some (.now, p2) → step s2 = .next s3 → s3.result = some r2 → r1 ≤ r2

/-- R65 ("Then NOW number `n` returns ( E(τ_n) − 2^32 · Σ_{i=1..n} floor(Δ_i / 2^32) ) mod 2^64"), an inference the spec
marks as its own, under D16: from the reset registers, after NOWs at true times `es`, a NOW at true time `e` returns the
elapsed time less the lost wraps; and when no gap reaches 2^32 µs it returns the elapsed time. -/
def Obligations.NowReturnsElapsedTime : Prop :=
  ∀ (s t : State) (p : Ports) (es : List Nat) (e : Nat),
    s.ts = TickSource.afterReset → (0 :: es ++ [e]).Pairwise (· ≤ ·) → NowsAt s es t →
    t.nextOp = some (.now, p) → p.cnt32 = BitVec.ofNat 32 e →
    ∃ u r, step t = .next u ∧ u.result = some r ∧
      r.toNat = (e - 2 ^ 32 * lostWraps 0 (es ++ [e])) % 2 ^ 64 ∧
      ((∀ a b, (a, b) ∈ (0 :: es).zip (es ++ [e]) → b - a < 2 ^ 32) → r.toNat = e % 2 ^ 64)

/-- R66 ("after 2^32 detected wraps it returns to `0` and the result falls back to a small value"), an inference the
spec marks as its own: at the horizon a wrap brings the counter to 0, the result is the sample alone, and it is below
the tick the TickSource stood at. -/
def Obligations.NowFallsBackAtHorizon : Prop :=
  ∀ s : State, s.ts.ovf32 = 0xFFFFFFFF#32 → s.ports.cnt32 < s.ts.prev32 →
    ∃ t, exec .now s = .next t ∧ t.ts.ovf32 = 0#32 ∧ t.result = some (s.ports.cnt32.setWidth 64) ∧
      s.ports.cnt32.setWidth 64 < s.ts.tick

/-! ### UPDATE -/

/-- R70, and its parts R73 and R74 as written there: UPDATE's next state, whole, by four cases: no acceptance, a press,
a long release, a short release. `d` is the deadline after the level filter. -/
def Obligations.UpdateResult : Prop :=
  ∀ (s : State) (ch : ChanId),
    let c := s.chan ch
    let P := s.params.chan ch
    let t := s.ports.ticks
    let r := s.ports.pin ch
    let d := if r = c.rawLevel then c.debounceDeadline else t + P.debounceDelay
    ((t < d ∨ (r = P.pressedLevel ↔ c.pressed = true)) →
      exec (.update ch) s = .next ((s.setChan ch { c with rawLevel := r, debounceDeadline := d }).deliver 0#64)) ∧
    (d ≤ t → r = P.pressedLevel → c.pressed = false →
      exec (.update ch) s = .next ((s.setChan ch
        { c with
          rawLevel := r
          pressed := true
          pressStartTick := t
          debounceDeadline := t + P.longPressThreshold }).deliver 0#64)) ∧
    (d ≤ t → r ≠ P.pressedLevel → c.pressed = true → c.pressStartTick + P.longPressThreshold ≤ t →
      exec (.update ch) s = .next ((s.setChan ch
        { c with rawLevel := r, debounceDeadline := d, pressed := false, longPressPending := true }).deliver 0#64)) ∧
    (d ≤ t → r ≠ P.pressedLevel → c.pressed = true → t < c.pressStartTick + P.longPressThreshold →
      exec (.update ch) s = .next ((s.setChan ch
        { c with rawLevel := r, debounceDeadline := d, pressed := false, shortPressPending := true }).deliver 0#64))

/-- R76: a release accepted at exactly the press's tick plus the threshold is a long press. -/
def Obligations.ThresholdBoundaryIsLong : Prop :=
  ∀ (s : State) (ch : ChanId),
    (s.chan ch).pressed = true → s.ports.pin ch = (s.chan ch).rawLevel →
    s.ports.pin ch ≠ (s.params.chan ch).pressedLevel →
    (s.chan ch).debounceDeadline ≤ s.ports.ticks →
    s.ports.ticks = (s.chan ch).pressStartTick + (s.params.chan ch).longPressThreshold →
    ∃ t, exec (.update ch) s = .next t ∧ (t.chan ch).pressed = false ∧
      (t.chan ch).longPressPending = true ∧ (t.chan ch).shortPressPending = (s.chan ch).shortPressPending

/-- R82 ("Every accepted release sets exactly one of the two pending flags", "Which one is fixed by `t − pressStartTick`
against `LPT[ch]` alone"), an inference the spec marks as its own: the held duration decides, where the tick is not
below the press's and the threshold's sum does not wrap (R79). -/
def Obligations.ReleaseSetsOneFlagByHeldDuration : Prop :=
  ∀ (s t : State) (ch : ChanId),
    exec (.update ch) s = .next t → (s.chan ch).pressed = true → (t.chan ch).pressed = false →
    (s.chan ch).pressStartTick ≤ s.ports.ticks →
    (s.chan ch).pressStartTick.toNat + (s.params.chan ch).longPressThreshold.toNat < 2 ^ 64 →
    if s.ports.ticks - (s.chan ch).pressStartTick < (s.params.chan ch).longPressThreshold then
      (t.chan ch).shortPressPending = true ∧ (t.chan ch).longPressPending = (s.chan ch).longPressPending
    else
      (t.chan ch).longPressPending = true ∧ (t.chan ch).shortPressPending = (s.chan ch).shortPressPending

/-- R77: UPDATE only sets pending flags and never clears them; a press writes neither flag; a release writes one and
leaves the other. On every channel. -/
def Obligations.UpdateNeverClearsFlags : Prop :=
  ∀ (s : State) (ch : ChanId), ∃ t, exec (.update ch) s = .next t ∧
    (∀ ch', (s.chan ch').shortPressPending = true → (t.chan ch').shortPressPending = true) ∧
    (∀ ch', (s.chan ch').longPressPending = true → (t.chan ch').longPressPending = true) ∧
    ((s.chan ch).pressed = false →
      (t.chan ch).shortPressPending = (s.chan ch).shortPressPending ∧
      (t.chan ch).longPressPending = (s.chan ch).longPressPending) ∧
    ((s.chan ch).pressed = true → (t.chan ch).pressed = false →
      (t.chan ch).shortPressPending = (s.chan ch).shortPressPending ∧ (t.chan ch).longPressPending = true ∨
      (t.chan ch).longPressPending = (s.chan ch).longPressPending ∧ (t.chan ch).shortPressPending = true)

/-- R83 ("UPDATE on channel `ch` reads and writes only `C[ch]` and samples only `pin[ch]`."), an inference the spec
marks as its own: two states alike in the channel, its parameters, the operand and its pin end alike in the channel,
and each keeps its own TickSource and other channel. -/
def Obligations.UpdateTouchesOnlyItsChannel : Prop :=
  ∀ (s s' : State) (ch : ChanId),
    s.chan ch = s'.chan ch → s.params.chan ch = s'.params.chan ch →
    s.ports.ticks = s'.ports.ticks → s.ports.pin ch = s'.ports.pin ch →
    ∃ t t', exec (.update ch) s = .next t ∧ exec (.update ch) s' = .next t' ∧
      t.chan ch = t'.chan ch ∧ t.result = some 0#64 ∧ t'.result = some 0#64 ∧
      t.ts = s.ts ∧ t'.ts = s'.ts ∧
      ∀ ch', ch' ≠ ch → t.chan ch' = s.chan ch' ∧ t'.chan ch' = s'.chan ch'

/-- R61 ("no rule depends on it, because the channels share no state"): UPDATEs of the two channels commute. -/
def Obligations.UpdatesOfTwoChannelsCommute : Prop :=
  ∀ s : State, ∃ t u v, exec (.update .c0) s = .next t ∧ exec (.update .c1) t = .next v ∧
    exec (.update .c1) s = .next u ∧ exec (.update .c0) u = .next v

/-- R79, the corner cases, an inference the spec marks as its own ("Corner cases of UPDATE [derived: from rule R70]"):
`DD = 0` accepts at once; a positive `DD` whose sum does not wrap never does, and sets the deadline to the sum; a sum
that wraps accepts at once; `LPT = 0`, or a `pressStartTick + LPT` that passes 2^64, makes a release long where the tick
is not below the press's; a release below that (wrapping) sum is short; a tick below the deadline never accepts; a
sample equal to the stored level outside a debounce window changes no register; and a change then its reversal in two
UPDATEs at one tick, where the window is not empty, leaves the phase as it was and the deadline restarted. -/
def Obligations.UpdateCornerCases : Prop :=
  ∀ (s : State) (ch : ChanId),
    let c := s.chan ch
    let P := s.params.chan ch
    let r := s.ports.pin ch
    ∃ t, exec (.update ch) s = .next t ∧
      (P.debounceDelay = 0#64 → r ≠ c.rawLevel → active P r ≠ c.pressed →
        (t.chan ch).pressed = !c.pressed) ∧
      (P.debounceDelay ≠ 0#64 → s.ports.ticks.toNat + P.debounceDelay.toNat < 2 ^ 64 → r ≠ c.rawLevel →
        (t.chan ch).pressed = c.pressed ∧
          (t.chan ch).debounceDeadline.toNat = s.ports.ticks.toNat + P.debounceDelay.toNat) ∧
      (2 ^ 64 ≤ s.ports.ticks.toNat + P.debounceDelay.toNat → r ≠ c.rawLevel → active P r ≠ c.pressed →
        (t.chan ch).pressed = !c.pressed) ∧
      (P.longPressThreshold = 0#64 ∨ 2 ^ 64 ≤ c.pressStartTick.toNat + P.longPressThreshold.toNat →
        c.pressStartTick ≤ s.ports.ticks → c.pressed = true → (t.chan ch).pressed = false →
        (t.chan ch).longPressPending = true ∧ (t.chan ch).shortPressPending = c.shortPressPending) ∧
      (s.ports.ticks < c.pressStartTick + P.longPressThreshold → c.pressed = true → (t.chan ch).pressed = false →
        (t.chan ch).shortPressPending = true ∧ (t.chan ch).longPressPending = c.longPressPending) ∧
      (r = c.rawLevel → s.ports.ticks < c.debounceDeadline → t.chan ch = c) ∧
      (r = c.rawLevel → c.phase P ≠ .debouncingEdge → t = s.deliver 0#64) ∧
      (s.ports.ticks < s.ports.ticks + P.debounceDelay → r ≠ c.rawLevel →
        ∀ q : Ports, q.ticks = s.ports.ticks → q.pin ch = c.rawLevel →
          ∃ u, exec (.update ch) (t.present q) = .next u ∧
            u.chan ch = { c with debounceDeadline := s.ports.ticks + P.debounceDelay } ∧
            (u.chan ch).phase (u.params.chan ch) = c.phase P)

/-- R78 ("A bounce while pressed does not change the classification.", "The same holds for a bounce while released"), an
inference the spec marks as its own: from outside a debounce window the level leaves and comes back, every UPDATE of the
channel in between sampling the other level before the restarted deadline. Then `pressed` and `pressStartTick` are as
before, no flag of the channel is set, and the phase is as before. -/
def Obligations.BounceKeepsHeldDuration : Prop :=
  ∀ (s s1 s2 : State) (ch : ChanId) (p q : Ports),
    (s.chan ch).phase (s.params.chan ch) ≠ .debouncingEdge →
    s.nextOp = some (.update ch, p) → p.pin ch ≠ (s.chan ch).rawLevel →
    p.ticks < p.ticks + (s.params.chan ch).debounceDelay → step s = .next s1 →
    RunWhile (State.updatesOnly ch fun u =>
      u.pin ch = p.pin ch ∧ u.ticks < p.ticks + (s.params.chan ch).debounceDelay) s1 s2 →
    s2.nextOp = some (.update ch, q) → q.pin ch = (s.chan ch).rawLevel →
    ∃ s3, step s2 = .next s3 ∧
      (s3.chan ch).pressed = (s.chan ch).pressed ∧
      (s3.chan ch).pressStartTick = (s.chan ch).pressStartTick ∧
      (s3.chan ch).phase (s3.params.chan ch) = (s.chan ch).phase (s.params.chan ch) ∧
      ((s3.chan ch).shortPressPending = true → (s.chan ch).shortPressPending = true) ∧
      ((s3.chan ch).longPressPending = true → (s.chan ch).longPressPending = true)

/-- R80 ("The deadline written at the press edge … is never read by the acceptance test.", "So a model that omits this
write is observationally equal"), an inference the spec marks as its own: states that differ only in deadlines outside a
debounce window run alike for any number of steps, with equal results, refusals and other registers. -/
def Obligations.SettledDeadlineUnobservable : Prop :=
  ∀ (k : Nat) (s s' : State), s.sameButSettledDeadlines s' →
    (∀ t, runSteps k s = .next t → ∃ t', runSteps k s' = .next t' ∧ t.sameButSettledDeadlines t') ∧
    (∀ r, runSteps k s = .refused r → runSteps k s' = .refused r)

/-- R81 ("Hence `pressed` changes at an UPDATE with operand `t` only under two conditions."), an inference the spec
marks as its own: in a run with no reset from a state outside a debounce window, a step that changes `pressed` is an
UPDATE for which some earlier (or the same) UPDATE, since the last change of `pressed`, saw a raw change at `t_c`, with
`t` not below `t_c + DD`, every UPDATE of the channel since then having sampled the same level. -/
def Obligations.PressedChangesOnlyAfterStableWindow : Prop :=
  ∀ (s0 s t : State) (ch : ChanId),
    (s0.chan ch).phase (s0.params.chan ch) ≠ .debouncingEdge →
    RunWhile (fun u => u.resetsNext = false) s0 s → s.resetsNext = false → step s = .next t →
    (t.chan ch).pressed ≠ (s.chan ch).pressed →
    ∃ (p pc : Ports) (sc : State),
      s.nextOp = some (.update ch, p) ∧
      RunWhile (fun u => u.resetsNext = false) s0 sc ∧
      sc.nextOp = some (.update ch, pc) ∧ pc.pin ch ≠ (sc.chan ch).rawLevel ∧
      p.pin ch = pc.pin ch ∧
      pc.ticks + (s.params.chan ch).debounceDelay ≤ p.ticks ∧
      (sc = s ∨
        ∃ sd, step sc = .next sd ∧ (sc.chan ch).pressed = (s.chan ch).pressed ∧
          RunWhile (fun u => State.updatesOnly ch (fun q => q.pin ch = pc.pin ch) u ∧
            (u.chan ch).pressed = (s.chan ch).pressed) sd s)

/-- R84 ("With non-decreasing ticks, a pending change is accepted at the first UPDATE on `ch` whose operand reaches the
deadline."), an inference the spec marks as its own: in a debounce window, while every UPDATE of the channel samples the
stored level below the deadline, `pressed` stays; the first UPDATE at or above it accepts the level. -/
def Obligations.PendingChangeAcceptedAtDeadline : Prop :=
  ∀ (s s1 : State) (ch : ChanId) (p : Ports),
    (s.chan ch).phase (s.params.chan ch) = .debouncingEdge →
    RunWhile (State.updatesOnly ch fun u =>
      u.pin ch = (s.chan ch).rawLevel ∧ u.ticks < (s.chan ch).debounceDeadline) s s1 →
    s1.nextOp = some (.update ch, p) → p.pin ch = (s.chan ch).rawLevel →
    (s.chan ch).debounceDeadline ≤ p.ticks →
    (s1.chan ch).pressed = (s.chan ch).pressed ∧
    ∃ t, step s1 = .next t ∧ (t.chan ch).pressed = active (s.params.chan ch) (s.chan ch).rawLevel ∧
      (t.chan ch).pressed = !(s.chan ch).pressed

/-! ### Queries -/

/-- R85: ISPRESSED's next state, whole: the debounced state as its result, no register written. -/
def Obligations.IspressedResult : Prop :=
  ∀ (s : State) (ch : ChanId), exec (.ispressed ch) s =
    .next (s.deliver (if (s.chan ch).pressed then 1#64 else 0#64))

/-- R86: ISSHORT's next state, whole: the flag as read before it is cleared as its result, and the flag cleared. -/
def Obligations.IsshortResult : Prop :=
  ∀ (s : State) (ch : ChanId), exec (.isshort ch) s =
    .next ((s.setChan ch { s.chan ch with shortPressPending := false }).deliver
      (if (s.chan ch).shortPressPending then 1#64 else 0#64))

/-- R87: ISLONG's next state, whole: the flag as read before it is cleared as its result, and the flag cleared. -/
def Obligations.IslongResult : Prop :=
  ∀ (s : State) (ch : ChanId), exec (.islong ch) s =
    .next ((s.setChan ch { s.chan ch with longPressPending := false }).deliver
      (if (s.chan ch).longPressPending then 1#64 else 0#64))

/-- R88 ("A classification set by one release is returned as `1` by exactly one ISSHORT or ISLONG"), an inference the
spec marks as its own, for short presses: a pending flag survives any run with no reset and no ISSHORT of the channel;
the next ISSHORT returns 1; and every later ISSHORT returns 0 while no release is accepted on the channel. -/
def Obligations.ShortPressReadOnce : Prop :=
  ∀ (s s1 s2 s3 : State) (ch : ChanId) (p q : Ports),
    (s.chan ch).shortPressPending = true →
    RunWhile (State.noResetNo (.isshort ch)) s s1 → s1.nextOp = some (.isshort ch, p) → step s1 = .next s2 →
    RunWhile (fun u => ¬ u.releasesNext ch) s2 s3 → s3.nextOp = some (.isshort ch, q) →
    s2.result = some 1#64 ∧ ∃ s4, step s3 = .next s4 ∧ s4.result = some 0#64

/-- R88 for long presses, an inference the spec marks as its own ("Every later query of that class returns `0` until a
later release sets the flag again."). -/
def Obligations.LongPressReadOnce : Prop :=
  ∀ (s s1 s2 s3 : State) (ch : ChanId) (p q : Ports),
    (s.chan ch).longPressPending = true →
    RunWhile (State.noResetNo (.islong ch)) s s1 → s1.nextOp = some (.islong ch, p) → step s1 = .next s2 →
    RunWhile (fun u => ¬ u.releasesNext ch) s2 s3 → s3.nextOp = some (.islong ch, q) →
    s2.result = some 1#64 ∧ ∃ s4, step s3 = .next s4 ∧ s4.result = some 0#64

/-- R90 ("It is never lost and never returned twice"), an inference the spec marks as its own (R47): an UPDATE of the
main loop that accepts a short release, requested at the same instant as an ISSHORT of the bus context: either the query
returns 1 and the flag ends cleared, or it returns the old flag and the flag ends set. -/
def Obligations.CoincidingReleaseAndQuery : Prop :=
  ∀ (s : State) (m b : Ports) (rest : List Instant) (ch : ChanId),
    s.program = ⟨false, some m, some b⟩ :: rest →
    decode m.cmd = .ok (.update ch) → decode b.cmd = .ok (.isshort ch) →
    (s.chan ch).pressed = true → m.pin ch ≠ (s.params.chan ch).pressedLevel →
    m.pin ch = (s.chan ch).rawLevel → (s.chan ch).debounceDeadline ≤ m.ticks →
    m.ticks < (s.chan ch).pressStartTick + (s.params.chan ch).longPressThreshold →
    ∃ t u, step s = .next t ∧ step t = .next u ∧ (u.chan ch).pressed = false ∧
      ((t.result = some 0#64 ∧ u.result = some 1#64 ∧ (u.chan ch).shortPressPending = false) ∨
       (t.result = some (zextBool (s.chan ch).shortPressPending) ∧ u.result = some 0#64 ∧
          (u.chan ch).shortPressPending = true))

/-- R90 and R47 for long presses, an inference the spec marks as its own ("a release classified by an UPDATE that
coincides with the query is either returned by this query (UPDATE first) or left pending for the next (query first)"):
an UPDATE of the main loop that accepts a long release, requested at the same instant as an ISLONG of the bus context. -/
def Obligations.CoincidingLongReleaseAndQuery : Prop :=
  ∀ (s : State) (m b : Ports) (rest : List Instant) (ch : ChanId),
    s.program = ⟨false, some m, some b⟩ :: rest →
    decode m.cmd = .ok (.update ch) → decode b.cmd = .ok (.islong ch) →
    (s.chan ch).pressed = true → m.pin ch ≠ (s.params.chan ch).pressedLevel →
    m.pin ch = (s.chan ch).rawLevel → (s.chan ch).debounceDeadline ≤ m.ticks →
    (s.chan ch).pressStartTick + (s.params.chan ch).longPressThreshold ≤ m.ticks →
    ∃ t u, step s = .next t ∧ step t = .next u ∧ (u.chan ch).pressed = false ∧
      ((t.result = some 0#64 ∧ u.result = some 1#64 ∧ (u.chan ch).longPressPending = false) ∨
       (t.result = some (zextBool (s.chan ch).longPressPending) ∧ u.result = some 0#64 ∧
          (u.chan ch).longPressPending = true))

/-- R92 ("any number of ISPRESSED, ISSHORT or ISLONG on any channel between two UPDATEs on `ch` return the same
`C[ch].pressed`"), an inference the spec marks as its own: through any run with no reset and no UPDATE of the channel,
ISPRESSED returns the same value. -/
def Obligations.IspressedIdempotent : Prop :=
  ∀ (s s1 : State) (ch : ChanId) (p : Ports),
    RunWhile (State.noResetNo (.update ch)) s s1 → s1.nextOp = some (.ispressed ch, p) →
    ∃ t, step s1 = .next t ∧ t.result = some (zextBool (s.chan ch).pressed) ∧
      (t.chan ch).pressed = (s.chan ch).pressed

/-- R91 ("a status composed from several queries may combine values from before and after one UPDATE"), an inference the
spec marks as its own: whatever the parameters, there is a run, begun with no short press pending, in which ISPRESSED
returns 1, then an UPDATE accepts the release and sets the flag, then ISSHORT returns 1: a pair that no state of the run
holds. -/
def Obligations.StatusIsNoSnapshot : Prop :=
  ∀ (par : Params) (ch : ChanId), ∃ (s t u v : State) (p q r : Ports),
    s.params = par ∧ (s.chan ch).shortPressPending = false ∧
    s.nextOp = some (.ispressed ch, p) ∧ step s = .next t ∧ t.result = some 1#64 ∧
    t.nextOp = some (.update ch, q) ∧ step t = .next u ∧ (u.chan ch).pressed = false ∧
    u.nextOp = some (.isshort ch, r) ∧ step u = .next v ∧ v.result = some 1#64

/-! ### Frames over every operation -/

/-- R30's numbering, R89 ("No query reads or writes the other channel, the TickSource, or any hidden register") and R67:
each operation completes, and every register it does not name reads by its number as before; no operation writes the
parameters. NOW may change registers 0x00 and 0x01; UPDATE the six of its channel; ISSHORT and ISLONG one flag; ISPRESSED
none. -/
def Obligations.OperationFrames : Prop :=
  ∀ (s : State),
    (∃ t, exec .now s = .next t ∧ t.params = s.params ∧
      ∀ n, n ≠ 0x00 → n ≠ 0x01 → t.peek n = s.peek n) ∧
    ∀ ch : ChanId,
      (∃ t, exec (.update ch) s = .next t ∧ t.params = s.params ∧
        ∀ n, (n < 0x10 + 8 * ch.index ∨ 0x10 + 8 * ch.index + 6 ≤ n) → t.peek n = s.peek n) ∧
      (∃ t, exec (.ispressed ch) s = .next t ∧ t.params = s.params ∧ ∀ n, t.peek n = s.peek n) ∧
      (∃ t, exec (.isshort ch) s = .next t ∧ t.params = s.params ∧
        ∀ n, n ≠ 0x10 + 8 * ch.index + 4 → t.peek n = s.peek n) ∧
      (∃ t, exec (.islong ch) s = .next t ∧ t.params = s.params ∧
        ∀ n, n ≠ 0x10 + 8 * ch.index + 5 → t.peek n = s.peek n)

/-- R30: the register numbers: 0x00 and 0x01 are the TickSource's, `0x10 + 8·ch + k` the six of channel `ch` (the model's
read by number zero-extends, log 13), and no other number names a register. -/
def Obligations.RegisterNumbers : Prop :=
  ∀ s : State,
    s.peek 0x00 = some (s.ts.prev32.setWidth 64) ∧ s.peek 0x01 = some (s.ts.ovf32.setWidth 64) ∧
    (∀ ch : ChanId,
      s.peek (0x10 + 8 * ch.index + 0) = some ((s.chan ch).rawLevel.setWidth 64) ∧
      s.peek (0x10 + 8 * ch.index + 1) = some (s.chan ch).debounceDeadline ∧
      s.peek (0x10 + 8 * ch.index + 2) = some (if (s.chan ch).pressed then 1#64 else 0#64) ∧
      s.peek (0x10 + 8 * ch.index + 3) = some (s.chan ch).pressStartTick ∧
      s.peek (0x10 + 8 * ch.index + 4) = some (if (s.chan ch).shortPressPending then 1#64 else 0#64) ∧
      s.peek (0x10 + 8 * ch.index + 5) = some (if (s.chan ch).longPressPending then 1#64 else 0#64)) ∧
    ∀ n, s.peek n = none ↔
      n ≠ 0x00 ∧ n ≠ 0x01 ∧ ∀ (ch : ChanId) (k : Nat), k < 6 → n ≠ 0x10 + 8 * ch.index + k

/-- 10_state.md R21 to R29 and R102 (who writes each register): the TickSource changes only by NOW or RESET; a channel's
`rawLevel`, `debounceDeadline`, `pressed` and `pressStartTick` only by UPDATE of that channel or RESET; a pending flag is
set only by UPDATE of its channel and cleared only by its own query or RESET. -/
def Obligations.OnlyTheseEventsChangeRegisters : Prop :=
  ∀ (s t : State), step s = .next t → s.resetsNext = false →
    (t.ts ≠ s.ts → ∃ p, s.nextOp = some (.now, p)) ∧
    ∀ ch : ChanId,
      (((t.chan ch).rawLevel ≠ (s.chan ch).rawLevel ∨
        (t.chan ch).debounceDeadline ≠ (s.chan ch).debounceDeadline ∨
        (t.chan ch).pressed ≠ (s.chan ch).pressed ∨
        (t.chan ch).pressStartTick ≠ (s.chan ch).pressStartTick) → ∃ p, s.nextOp = some (.update ch, p)) ∧
      ((s.chan ch).shortPressPending = false → (t.chan ch).shortPressPending = true →
        ∃ p, s.nextOp = some (.update ch, p)) ∧
      ((s.chan ch).longPressPending = false → (t.chan ch).longPressPending = true →
        ∃ p, s.nextOp = some (.update ch, p)) ∧
      ((s.chan ch).shortPressPending = true → (t.chan ch).shortPressPending = false →
        ∃ p, s.nextOp = some (.isshort ch, p)) ∧
      ((s.chan ch).longPressPending = true → (t.chan ch).longPressPending = false →
        ∃ p, s.nextOp = some (.islong ch, p))

/-- R33 ("no operation writes them") and R108: no step, a RESET included, writes the parameters. -/
def Obligations.ParametersNeverWritten : Prop :=
  ∀ (s t : State), step s = .next t → t.params = s.params

/-- 10_state.md R21, R22, R24, R27 and the first sentence of R81 (an inference the spec marks as its own): from every
state whose registers record the past, every step gives one whose registers record the past with that step: the last
sample, the wraps modulo 2^32, the last sampled levels, the ticks of the last accepted presses, and in a debounce window
the tick of the last raw change plus the delay. -/
def Obligations.RegistersRecordPastKept : Prop :=
  ∀ (s t : State) (h : History), s.recordsPast h → step s = .next t → t.recordsPast (h.after s t)

/-- R107, R81 ("At reset the invariant holds trivially"): the reset registers record the empty past. -/
def Obligations.ResetRecordsEmptyPast : Prop :=
  ∀ p : Params, (State.resetWith p).recordsPast History.empty

/-! ### Reset -/

/-- R107, R108: an instant with `rst` asserted sets every register to its reset value in one step and leaves every
channel in phase Released; an operation requested at the same instant is not performed and returns no result; the
parameters are not changed. (`ports`, `program` and `draws` are the model's own fields: logs 1, 5, 7. That
a reserved word requested at that instant is discarded likewise is the model's choice: log 16.) -/
def Obligations.ResetStep : Prop :=
  ∀ (s : State) (main bus : Option Ports) (rest : List Instant),
    s.program = ⟨true, main, bus⟩ :: rest →
    step s = .next
      { ts := { prev32 := 0#32, ovf32 := 0#32 }
        c0 :=
          { rawLevel := 1#1 - s.params.c0.pressedLevel
            debounceDeadline := 0#64
            pressed := false
            pressStartTick := 0#64
            shortPressPending := false
            longPressPending := false }
        c1 :=
          { rawLevel := 1#1 - s.params.c1.pressedLevel
            debounceDeadline := 0#64
            pressed := false
            pressStartTick := 0#64
            shortPressPending := false
            longPressPending := false }
        params := s.params
        ports := s.ports
        result := none
        program := rest
        draws := s.draws } ∧
    ∀ t, step s = .next t → ∀ ch, (t.chan ch).phase (t.params.chan ch) = .released

/-- R107: the machine right after reset holds every register at its reset value, and every channel is Released. -/
def Obligations.ResetStateRegisters : Prop :=
  State.reset.ts.prev32 = 0#32 ∧ State.reset.ts.ovf32 = 0#32 ∧
  ∀ ch,
    (State.reset.chan ch).rawLevel = 1#1 - (State.reset.params.chan ch).pressedLevel ∧
    (State.reset.chan ch).debounceDeadline = 0#64 ∧ (State.reset.chan ch).pressed = false ∧
    (State.reset.chan ch).pressStartTick = 0#64 ∧ (State.reset.chan ch).shortPressPending = false ∧
    (State.reset.chan ch).longPressPending = false ∧
    (State.reset.chan ch).phase (State.reset.params.chan ch) = .released

/-- R109, an inference the spec marks as its own ("First operations after reset [derived: …]"): with the reset
registers, NOW counts no wrap and returns its sample; UPDATE with the inactive level changes nothing; UPDATE with the
active level starts a window; every query returns 0. -/
def Obligations.FirstOperationsAfterReset : Prop :=
  ∀ (s : State), s.ts = TickSource.afterReset → (∀ ch, s.chan ch = Channel.afterReset (s.params.chan ch)) →
    (∃ t, exec .now s = .next t ∧ t.ts.ovf32 = 0#32 ∧ t.result = some (s.ports.cnt32.setWidth 64)) ∧
    ∀ ch,
      (s.ports.pin ch ≠ (s.params.chan ch).pressedLevel →
        exec (.update ch) s = .next (s.deliver 0#64)) ∧
      (s.ports.pin ch = (s.params.chan ch).pressedLevel →
        ∃ t, exec (.update ch) s = .next t ∧
          (s.ports.ticks < s.ports.ticks + (s.params.chan ch).debounceDelay →
            (t.chan ch).debounceDeadline = s.ports.ticks + (s.params.chan ch).debounceDelay ∧
            (t.chan ch).phase (t.params.chan ch) = .debouncingEdge)) ∧
      exec (.ispressed ch) s = .next (s.deliver 0#64) ∧
      exec (.isshort ch) s = .next (s.deliver 0#64) ∧
      exec (.islong ch) s = .next (s.deliver 0#64)

/-! ### The pseudo-operations -/

/-- R61: `poll` is a NOW and then an UPDATE of each channel with the NOW's result as its operand, and the levels named by
their polarity (R60). Channel 0 first is the spec's convention (log 12). -/
def Obligations.PollUpdatesWithTheTick : Prop :=
  ∀ (s : State) (n : NowResults) (x : Sample) (a0 a1 : PinArg),
    ∃ u, runProgram (poll x a0 a1) n s = some (u, [(s.ts.sample x).tick, 0#64, 0#64]) ∧
      u.ts = s.ts.sample x ∧
      u.c0 = s.c0.update s.params.c0 (s.ts.sample x).tick (a0.level s.params.c0) ∧
      u.c1 = s.c1.update s.params.c1 (s.ts.sample x).tick (a1.level s.params.c1) ∧
      u.params = s.params ∧ u.program = s.program

/-- R62: the byte of `status` has `pressed`, short and long of channel 0 in bits 0 to 2 and of channel 1 in bits 3 to 5,
with bits 7:6 zero; afterwards the pending flags are clear and nothing else of the channels has changed. The order of the
queries is the spec's convention (log 12). -/
def Obligations.StatusByteLayout : Prop :=
  ∀ (s : State) (n : NowResults),
    ∃ u rs, runProgram status n s = some (u, rs) ∧
      (statusByte rs).getLsbD 0 = s.c0.pressed ∧
      (statusByte rs).getLsbD 1 = s.c0.shortPressPending ∧
      (statusByte rs).getLsbD 2 = s.c0.longPressPending ∧
      (statusByte rs).getLsbD 3 = s.c1.pressed ∧
      (statusByte rs).getLsbD 4 = s.c1.shortPressPending ∧
      (statusByte rs).getLsbD 5 = s.c1.longPressPending ∧
      (statusByte rs).getLsbD 6 = false ∧ (statusByte rs).getLsbD 7 = false ∧
      u.ts = s.ts ∧
      ∀ ch, u.chan ch = { s.chan ch with shortPressPending := false, longPressPending := false }

end
end

