-- ==== Sys2Proof/Laws/State.lean ====
section
/-! SUPPORT. One lemma per field of State and per named update, so that no proof unfolds a record update. -/

namespace Sys2Proof.Machine

/-! ### setTickSource -/

@[simp] theorem State.setTickSource_ts (s : State) (t : TickSource) : (s.setTickSource t).ts = t := rfl
@[simp] theorem State.setTickSource_c0 (s : State) (t : TickSource) : (s.setTickSource t).c0 = s.c0 := rfl
@[simp] theorem State.setTickSource_c1 (s : State) (t : TickSource) : (s.setTickSource t).c1 = s.c1 := rfl
@[simp] theorem State.setTickSource_params (s : State) (t : TickSource) : (s.setTickSource t).params = s.params := rfl
@[simp] theorem State.setTickSource_ports (s : State) (t : TickSource) : (s.setTickSource t).ports = s.ports := rfl
@[simp] theorem State.setTickSource_result (s : State) (t : TickSource) : (s.setTickSource t).result = s.result := rfl
@[simp] theorem State.setTickSource_program (s : State) (t : TickSource) : (s.setTickSource t).program = s.program := rfl
@[simp] theorem State.setTickSource_draws (s : State) (t : TickSource) : (s.setTickSource t).draws = s.draws := rfl
@[simp] theorem State.setTickSource_chan (s : State) (t : TickSource) (ch : ChanId) : (s.setTickSource t).chan ch = s.chan ch := by
  cases ch <;> rfl

/-! ### deliver -/

@[simp] theorem State.deliver_ts (s : State) (r : Tick) : (s.deliver r).ts = s.ts := rfl
@[simp] theorem State.deliver_c0 (s : State) (r : Tick) : (s.deliver r).c0 = s.c0 := rfl
@[simp] theorem State.deliver_c1 (s : State) (r : Tick) : (s.deliver r).c1 = s.c1 := rfl
@[simp] theorem State.deliver_params (s : State) (r : Tick) : (s.deliver r).params = s.params := rfl
@[simp] theorem State.deliver_ports (s : State) (r : Tick) : (s.deliver r).ports = s.ports := rfl
@[simp] theorem State.deliver_result (s : State) (r : Tick) : (s.deliver r).result = some r := rfl
@[simp] theorem State.deliver_program (s : State) (r : Tick) : (s.deliver r).program = s.program := rfl
@[simp] theorem State.deliver_draws (s : State) (r : Tick) : (s.deliver r).draws = s.draws := rfl
@[simp] theorem State.deliver_chan (s : State) (r : Tick) (ch : ChanId) : (s.deliver r).chan ch = s.chan ch := by
  cases ch <;> rfl

/-! ### deliverNone -/

@[simp] theorem State.deliverNone_ts (s : State) : (s.deliverNone).ts = s.ts := rfl
@[simp] theorem State.deliverNone_c0 (s : State) : (s.deliverNone).c0 = s.c0 := rfl
@[simp] theorem State.deliverNone_c1 (s : State) : (s.deliverNone).c1 = s.c1 := rfl
@[simp] theorem State.deliverNone_params (s : State) : (s.deliverNone).params = s.params := rfl
@[simp] theorem State.deliverNone_ports (s : State) : (s.deliverNone).ports = s.ports := rfl
@[simp] theorem State.deliverNone_result (s : State) : (s.deliverNone).result = none := rfl
@[simp] theorem State.deliverNone_program (s : State) : (s.deliverNone).program = s.program := rfl
@[simp] theorem State.deliverNone_draws (s : State) : (s.deliverNone).draws = s.draws := rfl
@[simp] theorem State.deliverNone_chan (s : State) (ch : ChanId) : (s.deliverNone).chan ch = s.chan ch := by
  cases ch <;> rfl

/-! ### present -/

@[simp] theorem State.present_ts (s : State) (p : Ports) : (s.present p).ts = s.ts := rfl
@[simp] theorem State.present_c0 (s : State) (p : Ports) : (s.present p).c0 = s.c0 := rfl
@[simp] theorem State.present_c1 (s : State) (p : Ports) : (s.present p).c1 = s.c1 := rfl
@[simp] theorem State.present_params (s : State) (p : Ports) : (s.present p).params = s.params := rfl
@[simp] theorem State.present_ports (s : State) (p : Ports) : (s.present p).ports = p := rfl
@[simp] theorem State.present_result (s : State) (p : Ports) : (s.present p).result = s.result := rfl
@[simp] theorem State.present_program (s : State) (p : Ports) : (s.present p).program = s.program := rfl
@[simp] theorem State.present_draws (s : State) (p : Ports) : (s.present p).draws = s.draws := rfl
@[simp] theorem State.present_chan (s : State) (p : Ports) (ch : ChanId) : (s.present p).chan ch = s.chan ch := by
  cases ch <;> rfl

/-! ### applyReset -/

@[simp] theorem State.applyReset_ts (s : State) : (s.applyReset).ts = TickSource.afterReset := rfl
@[simp] theorem State.applyReset_c0 (s : State) : (s.applyReset).c0 = Channel.afterReset s.params.c0 := rfl
@[simp] theorem State.applyReset_c1 (s : State) : (s.applyReset).c1 = Channel.afterReset s.params.c1 := rfl
@[simp] theorem State.applyReset_params (s : State) : (s.applyReset).params = s.params := rfl
@[simp] theorem State.applyReset_ports (s : State) : (s.applyReset).ports = s.ports := rfl
@[simp] theorem State.applyReset_result (s : State) : (s.applyReset).result = none := rfl
@[simp] theorem State.applyReset_program (s : State) : (s.applyReset).program = s.program := rfl
@[simp] theorem State.applyReset_draws (s : State) : (s.applyReset).draws = s.draws := rfl
@[simp] theorem State.applyReset_chan (s : State) (ch : ChanId) :
    s.applyReset.chan ch = Channel.afterReset (s.params.chan ch) := by cases ch <;> rfl

/-! ### request -/

@[simp] theorem State.request_ts (s : State) (w : Command) : (s.request w).ts = s.ts := rfl
@[simp] theorem State.request_c0 (s : State) (w : Command) : (s.request w).c0 = s.c0 := rfl
@[simp] theorem State.request_c1 (s : State) (w : Command) : (s.request w).c1 = s.c1 := rfl
@[simp] theorem State.request_params (s : State) (w : Command) : (s.request w).params = s.params := rfl
@[simp] theorem State.request_ports (s : State) (w : Command) : (s.request w).ports = s.ports := rfl
@[simp] theorem State.request_result (s : State) (w : Command) : (s.request w).result = s.result := rfl
@[simp] theorem State.request_program (s : State) (w : Command) : (s.request w).program = { rst := false, main := some { s.ports with cmd := w }, bus := none } :: s.program := rfl
@[simp] theorem State.request_draws (s : State) (w : Command) : (s.request w).draws = s.draws := rfl
@[simp] theorem State.request_chan (s : State) (w : Command) (ch : ChanId) : (s.request w).chan ch = s.chan ch := by
  cases ch <;> rfl

/-! ### withProgram and drawn -/

@[simp] theorem State.withProgram_ts (s : State) (rest : List Instant) : (s.withProgram rest).ts = s.ts := rfl
@[simp] theorem State.withProgram_c0 (s : State) (rest : List Instant) : (s.withProgram rest).c0 = s.c0 := rfl
@[simp] theorem State.withProgram_c1 (s : State) (rest : List Instant) : (s.withProgram rest).c1 = s.c1 := rfl
@[simp] theorem State.withProgram_params (s : State) (rest : List Instant) : (s.withProgram rest).params = s.params := rfl
@[simp] theorem State.withProgram_ports (s : State) (rest : List Instant) : (s.withProgram rest).ports = s.ports := rfl
@[simp] theorem State.withProgram_result (s : State) (rest : List Instant) : (s.withProgram rest).result = s.result := rfl
@[simp] theorem State.withProgram_program (s : State) (rest : List Instant) : (s.withProgram rest).program = rest := rfl
@[simp] theorem State.withProgram_draws (s : State) (rest : List Instant) : (s.withProgram rest).draws = s.draws := rfl
@[simp] theorem State.withProgram_chan (s : State) (rest : List Instant) (ch : ChanId) : (s.withProgram rest).chan ch = s.chan ch := by
  cases ch <;> rfl
@[simp] theorem State.drawn_ts (s : State) : s.drawn.ts = s.ts := rfl
@[simp] theorem State.drawn_c0 (s : State) : s.drawn.c0 = s.c0 := rfl
@[simp] theorem State.drawn_c1 (s : State) : s.drawn.c1 = s.c1 := rfl
@[simp] theorem State.drawn_params (s : State) : s.drawn.params = s.params := rfl
@[simp] theorem State.drawn_ports (s : State) : s.drawn.ports = s.ports := rfl
@[simp] theorem State.drawn_result (s : State) : s.drawn.result = s.result := rfl
@[simp] theorem State.drawn_program (s : State) : s.drawn.program = s.program := rfl
@[simp] theorem State.drawn_draws (s : State) : s.drawn.draws = s.draws + 1 := rfl
@[simp] theorem State.drawn_chan (s : State) (ch : ChanId) : s.drawn.chan ch = s.chan ch := by
  cases ch <;> rfl

/-! ### setChan -/

@[simp] theorem State.setChan_ts (s : State) (ch : ChanId) (c : Channel) : (s.setChan ch c).ts = s.ts := by
  cases ch <;> rfl
@[simp] theorem State.setChan_params (s : State) (ch : ChanId) (c : Channel) : (s.setChan ch c).params = s.params := by
  cases ch <;> rfl
@[simp] theorem State.setChan_ports (s : State) (ch : ChanId) (c : Channel) : (s.setChan ch c).ports = s.ports := by
  cases ch <;> rfl
@[simp] theorem State.setChan_result (s : State) (ch : ChanId) (c : Channel) : (s.setChan ch c).result = s.result := by
  cases ch <;> rfl
@[simp] theorem State.setChan_program (s : State) (ch : ChanId) (c : Channel) : (s.setChan ch c).program = s.program := by
  cases ch <;> rfl
@[simp] theorem State.setChan_draws (s : State) (ch : ChanId) (c : Channel) : (s.setChan ch c).draws = s.draws := by
  cases ch <;> rfl

@[simp] theorem State.setChan_chan_self (s : State) (ch : ChanId) (c : Channel) : (s.setChan ch c).chan ch = c := by
  cases ch <;> rfl

theorem State.setChan_chan_ne (s : State) {ch ch' : ChanId} (h : ch' ≠ ch) (c : Channel) :
    (s.setChan ch c).chan ch' = s.chan ch' := by
  cases ch <;> cases ch' <;> first | rfl | exact absurd rfl h

@[simp] theorem State.setChan_chan_same (s : State) (ch : ChanId) : s.setChan ch (s.chan ch) = s := by
  cases ch <;> rfl

theorem State.setChan_chan (s : State) (ch ch' : ChanId) (c : Channel) :
    (s.setChan ch c).chan ch' = if ch' = ch then c else s.chan ch' := by
  by_cases h : ch' = ch
  · subst h; simp
  · simp [h, State.setChan_chan_ne s h]

/-- Two states are equal when they agree field by field, the channels by their index. -/
theorem State.ext_chan {s t : State} (hts : s.ts = t.ts) (hch : ∀ ch, s.chan ch = t.chan ch)
    (hparams : s.params = t.params) (hports : s.ports = t.ports) (hresult : s.result = t.result)
    (hprogram : s.program = t.program) (hdraws : s.draws = t.draws) : s = t := by
  have h0 := hch .c0
  have h1 := hch .c1
  cases s
  cases t
  simp_all [State.chan]

/-! ### RESET and the operands -/

@[simp] theorem Channel.afterReset_pressed (p : ChanParams) : (Channel.afterReset p).pressed = false := rfl
@[simp] theorem Channel.afterReset_rawLevel (p : ChanParams) : (Channel.afterReset p).rawLevel = 1#1 - p.pressedLevel := rfl
@[simp] theorem Channel.afterReset_debounceDeadline (p : ChanParams) : (Channel.afterReset p).debounceDeadline = 0#64 := rfl
@[simp] theorem Channel.afterReset_pressStartTick (p : ChanParams) : (Channel.afterReset p).pressStartTick = 0#64 := rfl
@[simp] theorem Channel.afterReset_short (p : ChanParams) : (Channel.afterReset p).shortPressPending = false := rfl
@[simp] theorem Channel.afterReset_long (p : ChanParams) : (Channel.afterReset p).longPressPending = false := rfl

@[simp] theorem State.resetWith_chan (p : Params) (ch : ChanId) :
    (State.resetWith p).chan ch = Channel.afterReset (p.chan ch) := by cases ch <;> rfl
@[simp] theorem State.resetWith_ts (p : Params) : (State.resetWith p).ts = TickSource.afterReset := rfl
@[simp] theorem State.resetWith_params (p : Params) : (State.resetWith p).params = p := rfl
@[simp] theorem State.resetWith_program (p : Params) : (State.resetWith p).program = [] := rfl

@[simp] theorem State.sampleCounter_present (s : State) (p : Ports) : (s.present p).sampleCounter = p.cnt32 := rfl
@[simp] theorem State.samplePin_present (s : State) (p : Ports) (ch : ChanId) :
    (s.present p).samplePin ch = p.pin ch := rfl
@[simp] theorem State.ticksOperand_present (s : State) (p : Ports) : (s.present p).ticksOperand = p.ticks := rfl

end Sys2Proof.Machine
end

