-- ==== Sys2Proof/Laws/Ops.lean ====
section
/-! SUPPORT. Small lemmas of the shared operations over values and register numbers. -/

namespace Sys2Proof.Machine

@[simp] theorem zextBool_true : zextBool true = 1#64 := rfl
@[simp] theorem zextBool_false : zextBool false = 0#64 := rfl

/-- A `Bool` is read back from its 64-bit form. -/
theorem zextBool_inj {a b : Bool} (h : zextBool a = zextBool b) : a = b := by
  revert h; cases a <;> cases b <;> decide

/-- The composition is the source's `(overflow << 32) | currentSample`, both widened to 64 bits first (R63). -/
theorem composeTick_eq_shift_or (o : WrapCount) (x : Sample) :
    composeTick o x = (o.setWidth 64 <<< 32) ||| x.setWidth 64 := by
  apply BitVec.eq_of_getLsbD_eq
  intro i hi
  have hx : ¬ i < 32 → x.getLsbD i = false := fun h => BitVec.getLsbD_of_ge x i (by omega)
  have happ : (composeTick o x).getLsbD i = if i < 32 then x.getLsbD i else o.getLsbD (i - 32) :=
    BitVec.getLsbD_append
  rw [happ, BitVec.getLsbD_or, BitVec.getLsbD_shiftLeft, BitVec.getLsbD_setWidth, BitVec.getLsbD_setWidth]
  by_cases h : i < 32
  · simp [h, hi]
  · have h' : i - 32 < 64 := by omega
    simp [h, hi, hx h, h']

/-- The composed tick as a number. -/
theorem composeTick_toNat (o : WrapCount) (x : Sample) :
    (composeTick o x).toNat = o.toNat * 2 ^ 32 + x.toNat := by
  have hx := x.isLt
  rw [composeTick, BitVec.toNat_append, Nat.shiftLeft_eq, Nat.mul_comm, ← Nat.two_pow_add_eq_or_of_lt hx]

/-- A register of channel `ch` at its number in R30. -/
theorem State.peek_channel (s : State) (ch : ChanId) {k : Nat} (hk : k < 8) :
    s.peek (0x10 + 8 * ch.index + k) = (s.chan ch).peek k := by
  cases ch
  · have h2 : ¬ (16 + k = 1) := by omega
    have h3 : 16 + k < 24 := by omega
    simp [State.peek, ChanId.index, State.chan, h2, h3]
  · have h2 : ¬ (24 + k = 1) := by omega
    have h3 : ¬ (24 + k < 24) := by omega
    have h4 : 24 + k < 32 := by omega
    simp [State.peek, ChanId.index, State.chan, h2, h3, h4]

end Sys2Proof.Machine
end

