-- ==== Sys2Proof/Laws/Button.lean ====
section
/-! SUPPORT. What the conditions and the parts of UPDATE say, once. -/

namespace Sys2Proof.Machine

@[simp] theorem active_pressedLevel (p : ChanParams) : active p p.pressedLevel = true := by simp [active]

@[simp] theorem active_released (p : ChanParams) : active p (1#1 - p.pressedLevel) = false := by
  have h : ∀ l : Level, ¬ (1#1 - l = l) := by decide
  simp [active, h]

/-- Two levels with one logical value are one level. -/
theorem active_inj (p : ChanParams) {r q : Level} (h : active p r = active p q) : r = q := by
  have key : ∀ l r q : Level, decide (r = l) = decide (q = l) → r = q := by decide
  exact key p.pressedLevel r q h

@[simp] theorem Channel.phase_debouncing_iff (p : ChanParams) (c : Channel) :
    c.phase p = .debouncingEdge ↔ active p c.rawLevel ≠ c.pressed := by
  unfold Channel.phase
  split
  · simp_all
  · cases hp : c.pressed <;> simp_all

@[simp] theorem Channel.phase_pressed_iff (p : ChanParams) (c : Channel) :
    c.phase p = .pressed ↔ active p c.rawLevel = true ∧ c.pressed = true := by
  unfold Channel.phase
  cases active p c.rawLevel <;> cases c.pressed <;> simp

@[simp] theorem Channel.phase_released_iff (p : ChanParams) (c : Channel) :
    c.phase p = .released ↔ active p c.rawLevel = false ∧ c.pressed = false := by
  unfold Channel.phase
  cases active p c.rawLevel <;> cases c.pressed <;> simp

theorem Channel.accepts_iff (p : ChanParams) (c : Channel) (t : Tick) :
    c.accepts p t = true ↔ c.debounceDeadline ≤ t ∧ active p c.rawLevel ≠ c.pressed := by
  simp [Channel.accepts]

theorem Channel.heldLong_iff (p : ChanParams) (c : Channel) (t : Tick) :
    c.heldLong p t = true ↔ c.pressStartTick + p.longPressThreshold ≤ t := by
  simp [Channel.heldLong]

@[simp] theorem Channel.filter_rawLevel (p : ChanParams) (c : Channel) (t : Tick) (r : Level) :
    (c.filter p t r).rawLevel = r := rfl
@[simp] theorem Channel.filter_pressed (p : ChanParams) (c : Channel) (t : Tick) (r : Level) :
    (c.filter p t r).pressed = c.pressed := rfl
@[simp] theorem Channel.filter_pressStartTick (p : ChanParams) (c : Channel) (t : Tick) (r : Level) :
    (c.filter p t r).pressStartTick = c.pressStartTick := rfl
@[simp] theorem Channel.filter_short (p : ChanParams) (c : Channel) (t : Tick) (r : Level) :
    (c.filter p t r).shortPressPending = c.shortPressPending := rfl
@[simp] theorem Channel.filter_long (p : ChanParams) (c : Channel) (t : Tick) (r : Level) :
    (c.filter p t r).longPressPending = c.longPressPending := rfl
@[simp] theorem Channel.filter_debounceDeadline (p : ChanParams) (c : Channel) (t : Tick) (r : Level) :
    (c.filter p t r).debounceDeadline = if r ≠ c.rawLevel then t + p.debounceDelay else c.debounceDeadline := rfl

/-- Everything one UPDATE of a channel can do: no acceptance, a press, a long release or a short release (R70). -/
theorem Channel.update_cases (p : ChanParams) (c : Channel) (t : Tick) (r : Level) :
    (((c.filter p t r).accepts p t = false ∧ c.update p t r = c.filter p t r) ∨
     ((c.filter p t r).accepts p t = true ∧ active p r = true ∧ c.pressed = false ∧
        c.update p t r = (c.filter p t r).press p t) ∨
     ((c.filter p t r).accepts p t = true ∧ active p r = false ∧ c.pressed = true ∧
        c.pressStartTick + p.longPressThreshold ≤ t ∧
        c.update p t r = { c.filter p t r with pressed := false, longPressPending := true }) ∨
     ((c.filter p t r).accepts p t = true ∧ active p r = false ∧ c.pressed = true ∧
        ¬ c.pressStartTick + p.longPressThreshold ≤ t ∧
        c.update p t r = { c.filter p t r with pressed := false, shortPressPending := true })) := by
  rcases ha : (c.filter p t r).accepts p t with _ | _
  · left; exact ⟨rfl, by simp [Channel.update, Channel.accept, ha]⟩
  · right
    have hne := ((Channel.accepts_iff p _ t).mp ha).2
    rw [Channel.filter_rawLevel, Channel.filter_pressed] at hne
    cases hp : c.pressed
    · left
      refine ⟨rfl, by simpa [hp] using hne, rfl, ?_⟩
      simp [Channel.update, Channel.accept, ha, hp]
    · right
      have har : active p r = false := by simpa [hp] using hne
      by_cases hl : c.pressStartTick + p.longPressThreshold ≤ t
      · left
        refine ⟨rfl, har, rfl, hl, ?_⟩
        have hh : (c.filter p t r).heldLong p t = true := (Channel.heldLong_iff p _ t).mpr hl
        simp [Channel.update, Channel.accept, ha, hp, Channel.release, hh]
      · right
        refine ⟨rfl, har, rfl, hl, ?_⟩
        have hh : (c.filter p t r).heldLong p t = false := by
          rw [Channel.heldLong, decide_eq_false_iff_not]; exact hl
        simp [Channel.update, Channel.accept, ha, hp, Channel.release, hh]

/-- An UPDATE stores the sampled level, whatever else it does (R71). -/
@[simp] theorem Channel.update_rawLevel (p : ChanParams) (c : Channel) (t : Tick) (r : Level) :
    (c.update p t r).rawLevel = r := by
  rcases c.update_cases p t r with h | h | h | h <;> simp [h, Channel.press]

/-- An UPDATE that sees the stored level, below the deadline or outside a debounce window, changes nothing (R79). -/
theorem Channel.update_settled {p : ChanParams} {c : Channel} {t : Tick} {r : Level} (hr : r = c.rawLevel)
    (h : ¬ c.debounceDeadline ≤ t ∨ c.phase p ≠ .debouncingEdge) : c.update p t r = c := by
  have hf : c.filter p t r = c := by subst hr; simp [Channel.filter]
  have hn : ¬ c.accepts p t = true := by
    rw [Channel.accepts_iff, ← Channel.phase_debouncing_iff]
    rintro ⟨h1, h2⟩
    exact h.elim (· h1) (· h2)
  rw [Channel.update, hf, Channel.accept, if_neg hn]

/-- An UPDATE that sees a raw change and does not accept it restarts the debounce window, and that is all (R71). -/
theorem Channel.update_restarts {p : ChanParams} {c : Channel} {t : Tick} {r : Level} (hr : r ≠ c.rawLevel)
    (h : ¬ t + p.debounceDelay ≤ t ∨ active p r = c.pressed) :
    c.update p t r = { c with rawLevel := r, debounceDeadline := t + p.debounceDelay } := by
  have hf : c.filter p t r = { c with rawLevel := r, debounceDeadline := t + p.debounceDelay } := by
    simp [Channel.filter, hr]
  have hn : ¬ (c.filter p t r).accepts p t = true := by
    rw [Channel.accepts_iff, hf]
    rintro ⟨h1, h2⟩
    exact h.elim (· h1) h2
  rw [Channel.update, Channel.accept, if_neg hn, hf]

/-- What one UPDATE of a channel does to the pending flags: it clears none, and sets none without a release (R77). -/
theorem Channel.update_flags (p : ChanParams) (c : Channel) (t : Tick) (r : Level) :
    (c.shortPressPending = true → (c.update p t r).shortPressPending = true) ∧
    (c.longPressPending = true → (c.update p t r).longPressPending = true) ∧
    (¬ (c.pressed = true ∧ (c.update p t r).pressed = false) →
      (c.update p t r).shortPressPending = c.shortPressPending ∧
      (c.update p t r).longPressPending = c.longPressPending) := by
  rcases c.update_cases p t r with ⟨_, h⟩ | ⟨_, _, _, h⟩ | ⟨_, _, hp, _, h⟩ | ⟨_, _, hp, _, h⟩ <;>
    rw [h] <;> simp_all [Channel.press]

end Sys2Proof.Machine
end

