-- ==== Sys2Proof/Laws/Step.lean ====
section
/-! SUPPORT. What a turn and a step can be, once. -/

namespace Sys2Proof.Machine

/-- Taking a turn touches only the model's `program` and `draws`. -/
def State.sameMachine (s u : State) : Prop :=
  u.ts = s.ts ∧ (∀ ch, u.chan ch = s.chan ch) ∧ u.params = s.params ∧ u.ports = s.ports ∧ u.result = s.result

theorem State.sameMachine_withProgram (s : State) (rest : List Instant) : s.sameMachine (s.withProgram rest) := by
  simp [State.sameMachine]

theorem State.sameMachine_drawn (s : State) (rest : List Instant) :
    s.sameMachine (s.drawn.withProgram rest) := by
  simp [State.sameMachine]

/-- Every turn: idle, RESET or an operation, in a state that differs only in `program` and `draws`. -/
theorem State.nextTurn_cases (s : State) :
    ∃ u, s.sameMachine u ∧ (s.nextTurn = .idle u ∨ s.nextTurn = .reset u ∨ ∃ p, s.nextTurn = .operation p u) := by
  unfold State.nextTurn
  split
  · exact ⟨s, ⟨rfl, fun _ => rfl, rfl, rfl, rfl⟩, .inl rfl⟩
  · next e rest _ =>
    split
    · exact ⟨_, s.sameMachine_withProgram rest, .inr (.inl rfl)⟩
    · split
      · exact ⟨_, s.sameMachine_withProgram rest, .inl rfl⟩
      · exact ⟨_, s.sameMachine_withProgram rest, .inr (.inr ⟨_, rfl⟩)⟩
      · exact ⟨_, s.sameMachine_withProgram rest, .inr (.inr ⟨_, rfl⟩)⟩
      · next m b _ _ =>
        unfold State.arbitrate
        split
        · exact ⟨_, s.sameMachine_drawn (⟨false, some m, none⟩ :: rest), .inr (.inr ⟨_, rfl⟩)⟩
        · exact ⟨_, s.sameMachine_drawn (⟨false, none, some b⟩ :: rest), .inr (.inr ⟨_, rfl⟩)⟩

/-- Everything a step that answers a next state can be: idle, RESET, or one legal operation. -/
theorem step_cases {s t : State} (h : step s = .next t) :
    ∃ u, s.sameMachine u ∧
      ((s.nextTurn = .idle u ∧ s.nextOp = none ∧ s.resetsNext = false ∧ t = u.deliverNone) ∨
       (s.nextTurn = .reset u ∧ s.nextOp = none ∧ s.resetsNext = true ∧ t = u.applyReset) ∨
       ∃ p i, s.nextTurn = .operation p u ∧ decode p.cmd = .ok i ∧ s.nextOp = some (i, p) ∧
         s.resetsNext = false ∧ exec i (u.present p) = .next t) := by
  obtain ⟨u, hu, h1 | h1 | ⟨p, h1⟩⟩ := s.nextTurn_cases
  · refine ⟨u, hu, .inl ⟨h1, by simp [State.nextOp, h1], by simp [State.resetsNext, h1], ?_⟩⟩
    simpa [step, h1, eq_comm] using h
  · refine ⟨u, hu, .inr (.inl ⟨h1, by simp [State.nextOp, h1], by simp [State.resetsNext, h1], ?_⟩)⟩
    simpa [step, h1, eq_comm] using h
  · cases hd : decode p.cmd with
    | error e => simp [step, h1, State.perform, hd] at h
    | ok i =>
      refine ⟨u, hu, .inr (.inr ⟨p, i, h1, hd, by simp [State.nextOp, h1, hd], by simp [State.resetsNext, h1], ?_⟩)⟩
      simpa [step, h1, State.perform, hd] using h

/-- When the next step performs an operation, the step is that operation's meaning on its ports. -/
theorem step_of_nextOp {s : State} {i : Instr} {p : Ports} (h : s.nextOp = some (i, p)) :
    ∃ u, s.sameMachine u ∧ s.nextTurn = .operation p u ∧ step s = exec i (u.present p) := by
  obtain ⟨u, hu, h1 | h1 | ⟨q, h1⟩⟩ := s.nextTurn_cases
  · simp [State.nextOp, h1] at h
  · simp [State.nextOp, h1] at h
  · cases hd : decode q.cmd with
    | error e => simp [State.nextOp, h1, hd] at h
    | ok j =>
      simp only [State.nextOp, h1, hd, Option.some.injEq, Prod.mk.injEq] at h
      obtain ⟨rfl, rfl⟩ := h
      exact ⟨u, hu, h1, by simp [step, h1, State.perform, hd]⟩

/-- Every operation completes: no meaning ends in a fault or a refusal (R93). -/
theorem exec_completes (i : Instr) (s : State) : ∃ t, exec i s = .next t := by
  cases i <;> exact ⟨_, rfl⟩

/-- No operation touches the parameters, the ports, the program or the draws. -/
theorem exec_keeps {i : Instr} {s t : State} (h : exec i s = .next t) :
    t.params = s.params ∧ t.ports = s.ports ∧ t.program = s.program ∧ t.draws = s.draws := by
  cases i <;>
    simp only [exec, execNow, execUpdate, execIspressed, execIsshort, execIslong, Host.Outcome.next.injEq] at h <;>
    subst h <;> simp

/-- A step that performs NOW (R63). -/
theorem step_now {s : State} {p : Ports} (h : s.nextOp = some (.now, p)) :
    ∃ t, step s = .next t ∧ t.ts = s.ts.sample p.cnt32 ∧ t.result = some (s.ts.sample p.cnt32).tick ∧
      ∀ ch, t.chan ch = s.chan ch := by
  obtain ⟨u, ⟨hts, hch, _⟩, _, hs⟩ := step_of_nextOp h
  exact ⟨_, hs, by simp [hts], by simp [hts], fun ch => by simp [hch]⟩

/-- A step that performs UPDATE (R70, R83). -/
theorem step_update {s : State} {ch : ChanId} {p : Ports} (h : s.nextOp = some (.update ch, p)) :
    ∃ t, step s = .next t ∧ t.chan ch = (s.chan ch).update (s.params.chan ch) p.ticks (p.pin ch) ∧
      t.ts = s.ts ∧ t.result = some 0#64 ∧ ∀ ch', ch' ≠ ch → t.chan ch' = s.chan ch' := by
  obtain ⟨u, ⟨hts, hch, hpar, _⟩, _, hs⟩ := step_of_nextOp h
  refine ⟨_, hs, by simp [hch, hpar], by simp [hts], by simp, fun ch' hc => ?_⟩
  simp [State.setChan_chan_ne _ hc, hch]

/-- A step that performs ISPRESSED (R85). -/
theorem step_ispressed {s : State} {ch : ChanId} {p : Ports} (h : s.nextOp = some (.ispressed ch, p)) :
    ∃ t, step s = .next t ∧ t.ts = s.ts ∧ t.result = some (zextBool (s.chan ch).pressed) ∧
      ∀ ch', t.chan ch' = s.chan ch' := by
  obtain ⟨u, ⟨hts, hch, _⟩, _, hs⟩ := step_of_nextOp h
  exact ⟨_, hs, by simp [hts], by simp [hch], fun ch' => by simp [hch]⟩

/-- A step that performs ISSHORT (R86). -/
theorem step_isshort {s : State} {ch : ChanId} {p : Ports} (h : s.nextOp = some (.isshort ch, p)) :
    ∃ t, step s = .next t ∧ t.chan ch = { s.chan ch with shortPressPending := false } ∧ t.ts = s.ts ∧
      t.result = some (zextBool (s.chan ch).shortPressPending) ∧ ∀ ch', ch' ≠ ch → t.chan ch' = s.chan ch' := by
  obtain ⟨u, ⟨hts, hch, _⟩, _, hs⟩ := step_of_nextOp h
  refine ⟨_, hs, by simp [hch], by simp [hts], by simp [hch], fun ch' hc => ?_⟩
  simp [State.setChan_chan_ne _ hc, hch]

/-- A step that performs ISLONG (R87). -/
theorem step_islong {s : State} {ch : ChanId} {p : Ports} (h : s.nextOp = some (.islong ch, p)) :
    ∃ t, step s = .next t ∧ t.chan ch = { s.chan ch with longPressPending := false } ∧ t.ts = s.ts ∧
      t.result = some (zextBool (s.chan ch).longPressPending) ∧ ∀ ch', ch' ≠ ch → t.chan ch' = s.chan ch' := by
  obtain ⟨u, ⟨hts, hch, _⟩, _, hs⟩ := step_of_nextOp h
  refine ⟨_, hs, by simp [hch], by simp [hts], by simp [hch], fun ch' hc => ?_⟩
  simp [State.setChan_chan_ne _ hc, hch]

/-- A step that is a RESET (R107). -/
theorem step_reset {s t : State} (h : step s = .next t) (hr : s.resetsNext = true) :
    t.ts = TickSource.afterReset ∧ t.result = none ∧ ∀ ch, t.chan ch = Channel.afterReset (s.params.chan ch) := by
  obtain ⟨u, ⟨_, _, hpar, _⟩, ⟨_, _, hn, _⟩ | ⟨_, _, _, rfl⟩ | ⟨_, _, _, _, _, hn, _⟩⟩ := step_cases h
  · rw [hr] at hn; cases hn
  · exact ⟨rfl, rfl, fun ch => by simp [hpar]⟩
  · rw [hr] at hn; cases hn

/-- What a step that is no RESET can do to channel `ch`: an UPDATE of it, or at most its own queries' clears. -/
theorem step_chan_cases {s t : State} (ch : ChanId) (h : step s = .next t) (hr : s.resetsNext = false) :
    (∃ p, s.nextOp = some (.update ch, p) ∧
      t.chan ch = (s.chan ch).update (s.params.chan ch) p.ticks (p.pin ch)) ∨
    ((∀ p, s.nextOp ≠ some (.update ch, p)) ∧
      ∃ a b, t.chan ch = { s.chan ch with shortPressPending := a, longPressPending := b } ∧
        (a = (s.chan ch).shortPressPending ∨ (a = false ∧ ∃ p, s.nextOp = some (.isshort ch, p))) ∧
        (b = (s.chan ch).longPressPending ∨ (b = false ∧ ∃ p, s.nextOp = some (.islong ch, p)))) := by
  have keep (hno : ∀ p, s.nextOp ≠ some (.update ch, p)) (he : t.chan ch = s.chan ch) :
      (∀ p, s.nextOp ≠ some (.update ch, p)) ∧
      ∃ a b, t.chan ch = { s.chan ch with shortPressPending := a, longPressPending := b } ∧
        (a = (s.chan ch).shortPressPending ∨ (a = false ∧ ∃ p, s.nextOp = some (.isshort ch, p))) ∧
        (b = (s.chan ch).longPressPending ∨ (b = false ∧ ∃ p, s.nextOp = some (.islong ch, p))) :=
    ⟨hno, _, _, he, .inl rfl, .inl rfl⟩
  obtain ⟨u, hu, ⟨_, hop, _, rfl⟩ | ⟨_, _, hn, _⟩ | ⟨p, i, _, _, hop, _, _⟩⟩ := step_cases h
  · exact .inr (keep (by simp [hop]) (by simp [hu.2.1]))
  · rw [hr] at hn; cases hn
  · cases i with
    | now =>
      obtain ⟨v, hv, _, _, hc⟩ := step_now hop
      rw [h] at hv; cases hv
      exact .inr (keep (by simp [hop]) (hc ch))
    | ispressed c =>
      obtain ⟨v, hv, _, _, hc⟩ := step_ispressed hop
      rw [h] at hv; cases hv
      exact .inr (keep (by simp [hop]) (hc ch))
    | update c =>
      obtain ⟨v, hv, hc, _, _, ho⟩ := step_update hop
      rw [h] at hv; cases hv
      by_cases e : ch = c
      · subst e; exact .inl ⟨p, hop, hc⟩
      · refine .inr (keep (fun q hq => ?_) (ho ch e))
        rw [hop] at hq
        cases hq
        exact e rfl
    | isshort c =>
      obtain ⟨v, hv, hc, _, _, ho⟩ := step_isshort hop
      rw [h] at hv; cases hv
      by_cases e : ch = c
      · subst e; exact .inr ⟨by simp [hop], false, _, hc, .inr ⟨rfl, p, hop⟩, .inl rfl⟩
      · exact .inr (keep (by simp [hop]) (ho ch e))
    | islong c =>
      obtain ⟨v, hv, hc, _, _, ho⟩ := step_islong hop
      rw [h] at hv; cases hv
      by_cases e : ch = c
      · subst e; exact .inr ⟨by simp [hop], _, false, hc, .inl rfl, .inr ⟨rfl, p, hop⟩⟩
      · exact .inr (keep (by simp [hop]) (ho ch e))

theorem core_run_of_next (M : Host.Core) (k : Nat) {s t : M.State} (h : M.step s = .next t) :
    M.run (k + 1) s = M.run k t := by simp [Host.Core.run, h]

theorem core_run_of_refused (M : Host.Core) (k : Nat) {s : M.State} {r : M.Refusal} (h : M.step s = .refused r) :
    M.run (k + 1) s = .refused r := by simp [Host.Core.run, h]

theorem runSteps_of_next (k : Nat) {s t : State} (h : step s = .next t) : runSteps (k + 1) s = runSteps k t := by
  simp [runSteps, h]

theorem runSteps_of_refused (k : Nat) {s : State} {r : Refusal} (h : step s = .refused r) :
    runSteps (k + 1) s = .refused r := by simp [runSteps, h]

/-- The statements' `runSteps` is the host's run of this machine. -/
theorem runSteps_eq_core_run (k : Nat) (s : State) : Host.Core.run Sys2Proof.core k s = runSteps k s := by
  induction k generalizing s with
  | zero => rfl
  | succ k ih =>
    cases h : step s with
    | next t =>
      exact (core_run_of_next Sys2Proof.core k h).trans ((ih t).trans (runSteps_of_next k h).symm)
    | fault f => cases f
    | refused r => exact (core_run_of_refused Sys2Proof.core k h).trans (runSteps_of_refused k h).symm

/-- A run's last step split off. -/
theorem RunWhile.snoc {P : State → Prop} {s t u : State} (h : RunWhile P s t) (hp : P t) (hs : step t = .next u) :
    RunWhile P s u := by
  induction h with
  | done => exact .more hp hs (.done u)
  | more p q _ ih => exact .more p q (ih hp hs)

/-- An invariant that every step with `P` keeps holds along a run with `P`. -/
theorem RunWhile.keeps {P Inv : State → Prop} (hstep : ∀ s t, P s → Inv s → step s = .next t → Inv t)
    {s t : State} (h : RunWhile P s t) (hs : Inv s) : Inv t := by
  induction h with
  | done => exact hs
  | more p q _ ih => exact ih (hstep _ _ p hs q)

end Sys2Proof.Machine
end

