-- ==== Sys2Proof/Laws/Assembler.lean ====
section
/-! SUPPORT. What issuing a line of a program does, once. -/

namespace Sys2Proof.Machine

/-- The command word of an operation decodes to it. -/
theorem decode_encode (i : Instr) : decode (encode i) = .ok i := by
  cases i <;> (try rename_i ch; cases ch) <;> rfl

/-- The ports of a line hold its operation's command word. -/
theorem AsmOp.ports_cmd {par : Params} {last : Option Tick} {base p : Ports} {o : AsmOp}
    (h : o.ports par last base = some p) : decode p.cmd = .ok o.instr := by
  cases o with
  | now c => cases h; exact decode_encode .now
  | update ch t pin =>
    cases hv : t.value last with
    | none => simp [AsmOp.ports, hv] at h
    | some v =>
      rw [AsmOp.ports, hv, Option.map_some, Option.some.injEq] at h
      subst h
      cases ch
      · exact decode_encode (.update .c0)
      · exact decode_encode (.update .c1)
  | ispressed ch => cases h; exact decode_encode (.ispressed ch)
  | isshort ch => cases h; exact decode_encode (.isshort ch)
  | islong ch => cases h; exact decode_encode (.islong ch)

/-- A context's single request is the next operation performed, whichever the context. -/
theorem step_instant (s : State) (c : Context) {p : Ports} {i : Instr} (rest : List Instant)
    (h : decode p.cmd = .ok i) :
    step (s.withProgram (c.instant p :: rest)) = exec i ((s.withProgram rest).present p) := by
  cases c <;> simp [step, State.nextTurn, Context.instant, State.perform, h] <;> rfl

/-- Issuing a line: its operation's meaning on the line's ports, then the rest of the program. -/
theorem runProgram_cons {l : AsmLine} {ls : List AsmLine} {n : NowResults} {s t : State} {p : Ports}
    (hp : l.op.ports s.params (n.of l.ctx) s.ports = some p) (ht : exec l.op.instr (s.present p) = .next t) :
    runProgram (l :: ls) n s =
      (runProgram ls (n.after l t.result) t).map fun r => (r.1, t.result.toList ++ r.2) := by
  have hs : step (s.withProgram (l.ctx.instant p :: s.program)) = .next t := by
    rw [step_instant s l.ctx s.program (AsmOp.ports_cmd hp)]
    exact ht
  rw [runProgram, hp]
  dsimp only
  rw [hs]
  dsimp only
  cases runProgram ls (n.after l t.result) t <;> rfl

end Sys2Proof.Machine
end

