-- ==== Sys2Proof/Laws/Decode.lean ====
section
/-! SUPPORT. The decoder against the well-formedness checks and the opcode table. -/

namespace Sys2Proof

/-- The decoder accepts exactly the well-formed fields. -/
theorem decodeFields_isOk_iff (f : Fields) : (decodeFields f).isOk = f.wellFormed := by
  obtain ⟨z, ch, op⟩ := f
  revert z ch op
  decide

/-- A decoded word is admitted by the opcode-table row of its operation's mnemonic, and by no other row. -/
theorem opcodeTable_decode (w : Command) :
    (opcodeTable.filter (·.admits w)).map (·.mnemonic) = ((decode w).toOption.map Instr.mnemonic).toList := by
  revert w
  decide

/-- No two rows of the opcode table admit one word. -/
theorem opcodeTable_disjoint :
    opcodeTable.Pairwise fun r q => ∀ w : Command, ¬ (r.admits w = true ∧ q.admits w = true) := by
  decide

end Sys2Proof
end

