-- ==== Sys2Proof/Laws/PerInstr.lean ====
section
/-! SUPPORT. The family of statements made for every operation, one lemma per constructor. -/

namespace Sys2Proof.Laws

/-- The operation's command word has well-formed fields: it is none of the reserved words (R56). -/
def EncodesWellFormed.Statement (i : Instr) : Prop := (commandFields (encode i)).wellFormed = true

theorem EncodesWellFormed.now : EncodesWellFormed.Statement .now := by
  simp only [EncodesWellFormed.Statement]; decide

theorem EncodesWellFormed.update (ch : ChanId) : EncodesWellFormed.Statement (.update ch) := by
  cases ch <;> simp only [EncodesWellFormed.Statement] <;> decide

theorem EncodesWellFormed.ispressed (ch : ChanId) : EncodesWellFormed.Statement (.ispressed ch) := by
  cases ch <;> simp only [EncodesWellFormed.Statement] <;> decide

theorem EncodesWellFormed.isshort (ch : ChanId) : EncodesWellFormed.Statement (.isshort ch) := by
  cases ch <;> simp only [EncodesWellFormed.Statement] <;> decide

theorem EncodesWellFormed.islong (ch : ChanId) : EncodesWellFormed.Statement (.islong ch) := by
  cases ch <;> simp only [EncodesWellFormed.Statement] <;> decide

end Sys2Proof.Laws
end

