-- ==== Sys2Proof/Tests/Slice0.lean ====
section
/-! SUPPORT. The model's own tests. Expected values come from spec/95_test_vectors.md (the vector is named at each test)
or are written out from the encoding of 30_encoding.md; and one witness for each statement that has hypotheses. -/

namespace Sys2Proof.Tests

open Sys2Proof.Machine

/-! ### Helpers -/

/-- The reference delays, with channel 0 active low and channel 1 active high. -/
def testParams : Params := { c0 := ChanParams.reference 0#1, c1 := ChanParams.reference 1#1 }

/-- The reset machine with a program placed. -/
def booted (prog : List Instant) : State := (State.resetWith testParams).withProgram prog

/-- The ports of a request of operation `i`; the pins show the active levels when `a` holds, else the inactive ones. -/
def ask (i : Instr) (t : Tick) (x : Sample) (a : Bool) : Ports :=
  { cmd := encode i, ticks := t, cnt32 := x, pin0 := if a then 0#1 else 1#1, pin1 := if a then 1#1 else 0#1 }

/-- One request of the main loop, and of the bus handler. -/
def byMain (p : Ports) : Instant := { rst := false, main := some p, bus := none }
def byBus (p : Ports) : Instant := { rst := false, main := none, bus := some p }

/-- A channel-1 state `(raw, dl, p, pst, sp, lp)` of the vectors, the level as active or inactive. -/
def chan1 (raw : Bool) (dl : Tick) (p : Bool) (pst : Tick) (sp lp : Bool) : Channel :=
  { rawLevel := if raw then 1#1 else 0#1, debounceDeadline := dl, pressed := p, pressStartTick := pst,
    shortPressPending := sp, longPressPending := lp }

/-- The machine with channel 1 in a given state, a request presented to it, and a program. -/
def at1 (c : Channel) (p : Ports) (prog : List Instant) : State := ((booted prog).setChan .c1 c).present p

/-- The state an outcome answers, or the default given. -/
def outcomeOr (d : State) : Host.Outcome State Fault Refusal → State
  | .next t => t
  | .fault _ => d
  | .refused _ => d

/-- The state after one step. -/
def after (s : State) : State := outcomeOr s (step s)

theorem not_op {s : State} {i j : Instr} {q : Ports} (h : s.nextOp = some (j, q)) (hne : j ≠ i) :
    ∀ p, s.nextOp ≠ some (i, p) := by
  intro p e
  rw [h] at e
  cases e
  exact hne rfl

theorem op_ports {s : State} {i : Instr} {q : Ports} {Q : Ports → Prop} (h : s.nextOp = some (i, q)) (hq : Q q) :
    ∀ p, s.nextOp = some (i, p) → Q p := by
  intro p e
  rw [h] at e
  cases e
  exact hq

/-! ### WellFormed: an ill-formed term for each check -/

theorem test_zZero_refuses : (Fields.mk 1#4 0#1 0#3).zZero = false := by decide
theorem test_opAssigned_refuses : (Fields.mk 0#4 0#1 5#3).opAssigned = false := by decide
theorem test_nowWithoutChannel_refuses : (Fields.mk 0#4 1#1 0#3).nowWithoutChannel = false := by decide
theorem test_wellFormed_refuses_each :
    (Fields.mk 8#4 0#1 0#3).wellFormed = false ∧ (Fields.mk 0#4 0#1 7#3).wellFormed = false ∧
      (Fields.mk 0#4 1#1 0#3).wellFormed = false ∧ (Fields.mk 0#4 1#1 4#3).wellFormed = true := by decide

/-! ### Decoding: every constructor's word written out from R50, R55: z (4 bits), ch, op (3 bits) -/

theorem test_decode_now : decode 0b00000000#8 = .ok .now := by decide
theorem test_decode_update : decode 0b00000001#8 = .ok (.update .c0) ∧ decode 0b00001001#8 = .ok (.update .c1) := by
  decide
theorem test_decode_ispressed :
    decode 0b00000010#8 = .ok (.ispressed .c0) ∧ decode 0b00001010#8 = .ok (.ispressed .c1) := by decide
theorem test_decode_isshort : decode 0b00000011#8 = .ok (.isshort .c0) ∧ decode 0b00001011#8 = .ok (.isshort .c1) := by
  decide
theorem test_decode_islong : decode 0b00000100#8 = .ok (.islong .c0) ∧ decode 0b00001100#8 = .ok (.islong .c1) := by
  decide
/-- X1, X2, X3. -/
theorem test_decode_reserved :
    decode 0x05#8 = .error .opUnassigned ∧ decode 0x0F#8 = .error .opUnassigned ∧
      decode 0x08#8 = .error .nowChannelBit ∧ decode 0x10#8 = .error .zNotZero ∧
      decode 0x19#8 = .error .zNotZero ∧ decode 0xFF#8 = .error .zNotZero := by decide
theorem test_tableWord :
    decodeTableWord 8 0x09 = some (.update .c1) ∧ decodeTableWord 8 0x08 = none ∧ decodeTableWord 16 0x109 = none := by
  decide

/-! ### One operation on a small state -/

/-- N3: a wrap. -/
theorem test_now_wraps :
    let t := outcomeOr (booted []) (exec .now { (booted []).present (ask .now 0 5 false) with ts := ⟨0xFFFFFFF0, 0⟩ })
    t.ts = ⟨5, 1⟩ ∧ t.result = some 0x0000000100000005#64 := by decide
/-- N6: a sample one lower counts as a wrap. -/
theorem test_now_one_lower :
    let t := outcomeOr (booted []) (exec .now { (booted []).present (ask .now 0 99 false) with ts := ⟨100, 7⟩ })
    t.ts = ⟨99, 8⟩ ∧ t.result = some 0x0000000800000063#64 := by decide
/-- U5: at the deadline the press is accepted, and the deadline re-armed. -/
theorem test_update_press :
    let t := outcomeOr (booted []) (exec (.update .c1)
      (at1 (chan1 true 80000 false 0 false false) (ask (.update .c1) 80000 0 true) []))
    t.c1 = chan1 true 580000 true 80000 false false ∧ t.c0 = (booted []).c0 ∧ t.result = some 0 := by decide
/-- U8 and U9: a hold of exactly the threshold is long, one tick less is short. -/
theorem test_update_boundary :
    (outcomeOr (booted []) (exec (.update .c1)
      (at1 (chan1 false 550000 true 50000 false false) (ask (.update .c1) 550000 0 false) []))).c1 =
        chan1 false 550000 false 50000 false true ∧
    (outcomeOr (booted []) (exec (.update .c1)
      (at1 (chan1 false 549999 true 50000 false false) (ask (.update .c1) 549999 0 false) []))).c1 =
        chan1 false 549999 false 50000 true false := by decide
/-- Q5: the debounced state, not the pending level. -/
theorem test_ispressed_debounced :
    let s := at1 (chan1 true 80000 false 0 false false) (ask (.ispressed .c1) 0 0 true) []
    exec (.ispressed .c1) s = .next (s.deliver 0#64) := by rfl
/-- Q2. -/
theorem test_isshort_reads_and_clears :
    let t := outcomeOr (booted []) (exec (.isshort .c1)
      (at1 (chan1 false 350000 false 80000 true false) (ask (.isshort .c1) 0 0 false) []))
    t.result = some 1 ∧ t.c1 = chan1 false 350000 false 80000 false false := by decide
/-- Q4: ISLONG leaves the short flag. -/
theorem test_islong_leaves_short :
    let t := outcomeOr (booted []) (exec (.islong .c1)
      (at1 (chan1 false 950000 false 250000 true true) (ask (.islong .c1) 0 0 false) []))
    t.result = some 1 ∧ t.c1 = chan1 false 950000 false 250000 true false := by decide
/-- X4, with a request at the same instant, which is not performed. -/
theorem test_reset :
    let s := (booted [{ rst := true, main := some (ask .now 0 9 false), bus := none }]).setChan .c1
      (chan1 true 580000 true 80000 true true)
    after s = booted [] := by decide
/-- The model's choice of log 16: a reserved word requested with `rst` is discarded with it. -/
theorem test_reset_discards_reserved :
    after (booted [{ rst := true, main := some { ask .now 0 9 false with cmd := 0x08#8 }, bus := none }]) = booted [] := by
  rfl
/-- The first step after reset runs a requested word. -/
theorem test_withFetchWord :
    step (State.reset.withFetchWord 8 0x09) =
      exec (.update .c1) (State.reset.present { State.reset.ports with cmd := 0x09#8 }) := by rfl
/-- R60: a line of the assembler. -/
theorem test_parseLine_update :
    parseLine "M: Update c1, 80_000 ; pin=A".toList = some ⟨.main, .update .c1 (.literal 80000#64) .active⟩ := by rfl
theorem test_parseLine_now :
    parseLine "now ; cnt32=0xFFFF_FFF0".toList = some ⟨.main, .now 0xFFFFFFF0#32⟩ := by rfl
theorem test_parseLine_query :
    parseLine "b: isshort C0".toList = some ⟨.bus, .isshort .c0⟩ := by rfl

/-! ### Witnesses: for each statement with hypotheses, a state and operands that meet all of them -/

theorem witness_DecodeEncodeAgree : decode 0x0C#8 = .ok (.islong .c1) := by decide

theorem witness_ReservedWordsRefused :
    let p := { ask .now 0 0 false with cmd := 0x0F#8 }
    (booted [byMain p]).nextTurn = .operation p (booted []) ∧ decode p.cmd = .error .opUnassigned := ⟨rfl, rfl⟩

theorem witness_RefusalMarksTheRun :
    let p := { ask .now 0 0 false with cmd := 0x08#8 }
    let s := booted [byMain (ask .now 0 7 false), byBus p]
    runSteps 1 s = .next (after s) ∧ (after s).nextTurn = .operation p ((after s).withProgram []) ∧
      decode p.cmd = .error .nowChannelBit := ⟨rfl, rfl, rfl⟩

theorem witness_StepRunsDecodedOperation :
    let p := ask (.islong .c0) 0 0 false
    (booted [byMain p]).program = [⟨false, some p, none⟩] ∧ (booted [byBus p]).program = [⟨false, none, some p⟩] ∧
      (booted [byBus p]).nextTurn = .operation p (booted []) ∧ decode p.cmd = .ok (.islong .c0) := ⟨rfl, rfl, rfl, rfl⟩

theorem witness_IdleStepChangesNoRegister :
    (booted []).program = [] ∧ (booted [⟨false, none, none⟩]).program = ⟨false, none, none⟩ :: [] := ⟨rfl, rfl⟩

/-- For LegalProgramNeverStops and LegalProgramKept. -/
theorem witness_LegalProgram :
    let s := booted [byMain (ask .now 0 7 false), byBus (ask (.isshort .c1) 0 0 false)]
    s.legalProgram = true ∧ step s = .next (after s) := ⟨rfl, rfl⟩

theorem witness_OperationsTakeEffectInOrder :
    let xs := [(Context.main, ask .now 0 7 false, Instr.now), (Context.bus, ask (.islong .c0) 0 0 false, Instr.islong .c0)]
    let s := booted [byMain (ask .now 0 7 false), byBus (ask (.islong .c0) 0 0 false)]
    (∀ x ∈ xs, decode x.2.1.cmd = .ok x.2.2) ∧ s.program = (xs.map fun x => x.1.instant x.2.1) ++ [] := by decide

theorem witness_CoincidingRequestsBothPerformed :
    let m := ask (.update .c1) 5 0 true
    let b := ask (.isshort .c1) 0 0 false
    (booted [⟨false, some m, some b⟩]).program = ⟨false, some m, some b⟩ :: [] ∧
      decode m.cmd = .ok (.update .c1) ∧ decode b.cmd = .ok (.isshort .c1) := ⟨rfl, rfl, rfl⟩

/-- A NOW, an UPDATE, and a NOW with a smaller sample. -/
def nowsProgram : State :=
  booted [byMain (ask .now 0 0xFFFFFFF0 false), byMain (ask (.update .c0) 9 0 true), byMain (ask .now 0 5 false)]

theorem witness_ConsecutiveNowsMonotone :
    nowsProgram.nextOp = some (.now, ask .now 0 0xFFFFFFF0 false) ∧
    step nowsProgram = .next (after nowsProgram) ∧
    (after nowsProgram).result = some 0xFFFFFFF0#64 ∧
    RunWhile State.noNowNoReset (after nowsProgram) (after (after nowsProgram)) ∧
    (after (after nowsProgram)).nextOp = some (.now, ask .now 0 5 false) :=
  ⟨rfl, rfl, rfl, .more ⟨rfl, not_op (j := .update .c0) rfl (by decide)⟩ rfl (.done _), rfl⟩

theorem witness_NowSequenceNonDecreasing :
    nowsProgram.nextOp = some (.now, ask .now 0 0xFFFFFFF0 false) ∧
    step nowsProgram = .next (after nowsProgram) ∧
    (after nowsProgram).result = some 0xFFFFFFF0#64 ∧
    RunWhile State.beforeHorizon (after nowsProgram) (after (after nowsProgram)) ∧
    (after (after nowsProgram)).beforeHorizon ∧
    (after (after nowsProgram)).nextOp = some (.now, ask .now 0 5 false) ∧
    step (after (after nowsProgram)) = .next (after (after (after nowsProgram))) ∧
    (after (after (after nowsProgram))).result = some 0x100000005#64 :=
  ⟨rfl, rfl, rfl,
    .more ⟨rfl, fun p h => absurd h (not_op (j := .update .c0) rfl (by decide) p)⟩ rfl (.done _),
    ⟨rfl, op_ports rfl (by decide)⟩, rfl, rfl, rfl⟩

/-- True times 0xFFFFFFF0 and 2^32 + 5: no gap reaches 2^32. -/
theorem witness_NowReturnsElapsedTime :
    nowsProgram.ts = TickSource.afterReset ∧ (0 :: [0xFFFFFFF0] ++ [0x100000005]).Pairwise (· ≤ ·) ∧
    NowsAt nowsProgram [0xFFFFFFF0] (after (after nowsProgram)) ∧
    (after (after nowsProgram)).nextOp = some (.now, ask .now 0 5 false) ∧
    (ask .now 0 5 false).cnt32 = BitVec.ofNat 32 0x100000005 ∧
    (∀ a b, (a, b) ∈ (0 :: [0xFFFFFFF0]).zip ([0xFFFFFFF0] ++ [0x100000005]) → b - a < 2 ^ 32) := by
  refine ⟨rfl, by decide, ?_, rfl, rfl, by simp; omega⟩
  exact .now (.done _) (rfl : nowsProgram.nextOp = some (.now, ask .now 0 0xFFFFFFF0 false)) rfl rfl
    (.done (.more ⟨rfl, not_op (j := .update .c0) rfl (by decide)⟩ rfl (.done _)))

theorem witness_NowFallsBackAtHorizon :
    let s : State := { (booted []).present (ask .now 0 3 false) with ts := ⟨0xFFFFFFF0, 0xFFFFFFFF⟩ }
    s.ts.ovf32 = 0xFFFFFFFF#32 ∧ s.ports.cnt32 < s.ts.prev32 := by decide

/-- The conditions of the four cases of UPDATE on channel 1, in their order: no acceptance, a press, a long and a short
release, as UpdateResult writes them. -/
def updateCase (s : State) (n : Nat) : Bool :=
  let c := s.c1
  let P := s.params.c1
  let d := if s.ports.pin1 = c.rawLevel then c.debounceDeadline else s.ports.ticks + P.debounceDelay
  match n with
  | 0 => decide (s.ports.ticks < d ∨ (s.ports.pin1 = P.pressedLevel ↔ c.pressed = true))
  | 1 => decide (d ≤ s.ports.ticks ∧ s.ports.pin1 = P.pressedLevel ∧ c.pressed = false)
  | 2 => decide (d ≤ s.ports.ticks ∧ s.ports.pin1 ≠ P.pressedLevel ∧ c.pressed = true ∧
      c.pressStartTick + P.longPressThreshold ≤ s.ports.ticks)
  | _ => decide (d ≤ s.ports.ticks ∧ s.ports.pin1 ≠ P.pressedLevel ∧ c.pressed = true ∧
      s.ports.ticks < c.pressStartTick + P.longPressThreshold)

/-- U4, U5, U8, U9: each case of UpdateResult at the boundary of the tick's range, and no other case. -/
theorem witness_UpdateResult :
    (List.range 4).map (updateCase (at1 (chan1 true 80000 false 0 false false) (ask (.update .c1) 79999 0 true) [])) =
      [true, false, false, false] ∧
    (List.range 4).map (updateCase (at1 (chan1 true 80000 false 0 false false) (ask (.update .c1) 80000 0 true) [])) =
      [false, true, false, false] ∧
    (List.range 4).map (updateCase (at1 (chan1 false 550000 true 50000 false false) (ask (.update .c1) 550000 0 false) [])) =
      [false, false, true, false] ∧
    (List.range 4).map (updateCase (at1 (chan1 false 549999 true 50000 false false) (ask (.update .c1) 549999 0 false) [])) =
      [false, false, false, true] := ⟨rfl, rfl, rfl, rfl⟩

theorem witness_ThresholdBoundaryIsLong :
    let s := at1 (chan1 false 550000 true 50000 false false) (ask (.update .c1) 550000 0 false) []
    (s.chan .c1).pressed = true ∧ s.ports.pin .c1 = (s.chan .c1).rawLevel ∧
    s.ports.pin .c1 ≠ (s.params.chan .c1).pressedLevel ∧ (s.chan .c1).debounceDeadline ≤ s.ports.ticks ∧
    s.ports.ticks = (s.chan .c1).pressStartTick + (s.params.chan .c1).longPressThreshold := by decide

/-- Held 500,000 and 499,999 ticks. -/
def heldUntil (d : Tick) : State := at1 (chan1 false d true 50000 false false) (ask (.update .c1) d 0 false) []

theorem witness_ReleaseSetsOneFlagByHeldDuration_long :
    let s := heldUntil 550000
    let t := outcomeOr s (exec (.update .c1) s)
    exec (.update .c1) s = .next t ∧ (s.chan .c1).pressed = true ∧ (t.chan .c1).pressed = false ∧
      (s.chan .c1).pressStartTick ≤ s.ports.ticks ∧
      (s.chan .c1).pressStartTick.toNat + (s.params.chan .c1).longPressThreshold.toNat < 2 ^ 64 ∧
      ¬ s.ports.ticks - (s.chan .c1).pressStartTick < (s.params.chan .c1).longPressThreshold :=
  ⟨rfl, rfl, rfl, by decide, by decide, by decide⟩

theorem witness_ReleaseSetsOneFlagByHeldDuration_short :
    let s := heldUntil 549999
    let t := outcomeOr s (exec (.update .c1) s)
    exec (.update .c1) s = .next t ∧ (s.chan .c1).pressed = true ∧ (t.chan .c1).pressed = false ∧
      (s.chan .c1).pressStartTick ≤ s.ports.ticks ∧
      (s.chan .c1).pressStartTick.toNat + (s.params.chan .c1).longPressThreshold.toNat < 2 ^ 64 ∧
      s.ports.ticks - (s.chan .c1).pressStartTick < (s.params.chan .c1).longPressThreshold :=
  ⟨rfl, rfl, rfl, by decide, by decide, by decide⟩

/-- Both flags pending before a press, and a short flag pending before a long release (U12). -/
theorem witness_UpdateNeverClearsFlags :
    (let s := at1 (chan1 true 80000 false 0 true true) (ask (.update .c1) 80000 0 true) []
     (s.chan .c1).shortPressPending = true ∧ (s.chan .c1).longPressPending = true ∧ (s.chan .c1).pressed = false) ∧
    (let s := at1 (chan1 false 950000 true 250000 true false) (ask (.update .c1) 950000 0 false) []
     (s.chan .c1).pressed = true ∧ ((outcomeOr s (exec (.update .c1) s)).chan .c1).pressed = false) := by decide

theorem witness_UpdateTouchesOnlyItsChannel :
    let s := at1 (chan1 true 80000 false 0 false false) (ask (.update .c1) 80000 0 true) []
    let s' := (s.setChan .c0 (chan1 true 1 true 2 true true)).setTickSource ⟨3, 4⟩
    s.chan .c1 = s'.chan .c1 ∧ s.params.chan .c1 = s'.params.chan .c1 ∧ s.ports.ticks = s'.ports.ticks ∧
      s.ports.pin .c1 = s'.ports.pin .c1 := by decide

/-- `s` with channel 1's parameters replaced. -/
def withParams1 (s : State) (dd lpt : Tick) : State :=
  { s with params := { s.params with c1 := ⟨dd, lpt, 1#1⟩ } }

/-- U13, then a delay of 1 with the largest sum that does not wrap, then the smallest that does, then LPT = 0 at the
press's own tick, one tick below the deadline, and U1. -/
theorem witness_UpdateCornerCases :
    (let s := withParams1 (at1 (chan1 false 0 false 0 false false) (ask (.update .c1) 10 0 true) []) 0 500000
     (s.params.chan .c1).debounceDelay = 0#64 ∧ s.ports.pin .c1 ≠ (s.chan .c1).rawLevel ∧
       active (s.params.chan .c1) (s.ports.pin .c1) ≠ (s.chan .c1).pressed) ∧
    (let s := withParams1 (at1 (chan1 false 0 false 0 false false)
        (ask (.update .c1) 0xFFFFFFFFFFFFFFFE 0 true) []) 1 500000
     (s.params.chan .c1).debounceDelay ≠ 0#64 ∧
       s.ports.ticks.toNat + (s.params.chan .c1).debounceDelay.toNat < 2 ^ 64 ∧
       s.ports.pin .c1 ≠ (s.chan .c1).rawLevel) ∧
    (let s := withParams1 (at1 (chan1 false 0 false 0 false false)
        (ask (.update .c1) 0xFFFFFFFFFFFFFFFF 0 true) []) 1 500000
     2 ^ 64 ≤ s.ports.ticks.toNat + (s.params.chan .c1).debounceDelay.toNat ∧
       s.ports.pin .c1 ≠ (s.chan .c1).rawLevel ∧
       active (s.params.chan .c1) (s.ports.pin .c1) ≠ (s.chan .c1).pressed) ∧
    (let s := withParams1 (at1 (chan1 false 7 true 7 false false) (ask (.update .c1) 7 0 false) []) 50000 0
     (s.params.chan .c1).longPressThreshold = 0#64 ∧ (s.chan .c1).pressStartTick ≤ s.ports.ticks ∧
       (s.chan .c1).pressed = true ∧ ((outcomeOr s (exec (.update .c1) s)).chan .c1).pressed = false) ∧
    (let s := at1 (chan1 true 80000 false 0 false false) (ask (.update .c1) 79999 0 true) []
     s.ports.pin .c1 = (s.chan .c1).rawLevel ∧ s.ports.ticks < (s.chan .c1).debounceDeadline) ∧
    (let s := at1 (chan1 false 0 false 0 false false) (ask (.update .c1) 1000 0 false) []
     s.ports.pin .c1 = (s.chan .c1).rawLevel ∧
       (s.chan .c1).phase (s.params.chan .c1) ≠ .debouncingEdge) := by decide

/-- A `pressStartTick + LPT` of exactly 2^64 at the press's own tick is long; a sum one above the tick is short. -/
theorem witness_UpdateCornerCases_release :
    (let s := withParams1 (at1 (chan1 false 1 true 1 false false) (ask (.update .c1) 1 0 false) []) 50000 0xFFFFFFFFFFFFFFFF
     2 ^ 64 ≤ (s.chan .c1).pressStartTick.toNat + (s.params.chan .c1).longPressThreshold.toNat ∧
       (s.chan .c1).pressStartTick ≤ s.ports.ticks ∧ (s.chan .c1).pressed = true ∧
       ((outcomeOr s (exec (.update .c1) s)).chan .c1).pressed = false) ∧
    (let s := heldUntil 549999
     s.ports.ticks < (s.chan .c1).pressStartTick + (s.params.chan .c1).longPressThreshold ∧
       (s.chan .c1).pressed = true ∧ ((outcomeOr s (exec (.update .c1) s)).chan .c1).pressed = false) := by
  refine ⟨⟨?_, ?_, rfl, rfl⟩, ?_, rfl, rfl⟩ <;> decide

/-- U18: a change and its reversal at one tick. -/
theorem witness_UpdateCornerCases_reversal :
    let s := at1 (chan1 false 0 false 0 false false) (ask (.update .c1) 10 0 true) []
    let q := ask (.update .c1) 10 0 false
    s.ports.ticks < s.ports.ticks + (s.params.chan .c1).debounceDelay ∧ s.ports.pin .c1 ≠ (s.chan .c1).rawLevel ∧
      q.ticks = s.ports.ticks ∧ q.pin .c1 = (s.chan .c1).rawLevel := by decide

/-- U10: pressed, the level leaves at 300,000 and is back at 310,000, with an UPDATE between. -/
def bounceProgram : State :=
  at1 (chan1 true 550000 true 50000 false false) (ask .now 0 0 false)
    [byMain (ask (.update .c1) 300000 0 false), byMain (ask (.update .c1) 305000 0 false),
      byMain (ask (.update .c1) 310000 0 true)]

theorem witness_BounceKeepsHeldDuration :
    let s := bounceProgram
    let p := ask (.update .c1) 300000 0 false
    let q := ask (.update .c1) 310000 0 true
    (s.chan .c1).phase (s.params.chan .c1) ≠ .debouncingEdge ∧
    s.nextOp = some (.update .c1, p) ∧ p.pin .c1 ≠ (s.chan .c1).rawLevel ∧
    p.ticks < p.ticks + (s.params.chan .c1).debounceDelay ∧ step s = .next (after s) ∧
    RunWhile (State.updatesOnly .c1 fun u =>
      u.pin .c1 = p.pin .c1 ∧ u.ticks < p.ticks + (s.params.chan .c1).debounceDelay) (after s) (after (after s)) ∧
    (after (after s)).nextOp = some (.update .c1, q) ∧ q.pin .c1 = (s.chan .c1).rawLevel :=
  ⟨by decide, rfl, by decide, by decide, rfl,
    .more ⟨rfl, op_ports (q := ask (.update .c1) 305000 0 false) rfl (by decide)⟩ rfl (.done _), rfl, by decide⟩

/-- Outside a debounce window, with different deadlines. -/
theorem witness_SettledDeadlineUnobservable :
    (at1 (chan1 true 550000 true 50000 false false) (ask .now 0 0 false) []).sameButSettledDeadlines
      (at1 (chan1 true 7 true 50000 false false) (ask .now 0 0 false) []) := by
  refine ⟨rfl, rfl, rfl, rfl, rfl, rfl, fun ch => ?_⟩
  cases ch
  · exact ⟨rfl, fun _ => rfl⟩
  · exact ⟨rfl, fun h => absurd h (by decide)⟩

/-- U2 then U5's shape: a raw change at 1000 and the acceptance at 51,000. -/
def pressProgram : State :=
  booted [byMain (ask (.update .c1) 1000 0 true), byMain (ask (.update .c1) 51000 0 true)]

theorem witness_PressedChangesOnlyAfterStableWindow :
    let s0 := pressProgram
    let s := after s0
    (s0.chan .c1).phase (s0.params.chan .c1) ≠ .debouncingEdge ∧
    RunWhile (fun u => u.resetsNext = false) s0 s ∧ s.resetsNext = false ∧ step s = .next (after s) ∧
    ((after s).chan .c1).pressed ≠ (s.chan .c1).pressed :=
  ⟨by decide, .more rfl rfl (.done _), rfl, rfl, by decide⟩

/-- U4 then U5: one tick below the deadline, then at it. -/
theorem witness_PendingChangeAcceptedAtDeadline :
    let s := at1 (chan1 true 80000 false 0 false false) (ask .now 0 0 false)
      [byMain (ask (.update .c1) 79999 0 true), byMain (ask (.update .c1) 80000 0 true)]
    let p := ask (.update .c1) 80000 0 true
    (s.chan .c1).phase (s.params.chan .c1) = .debouncingEdge ∧
    RunWhile (State.updatesOnly .c1 fun u =>
      u.pin .c1 = (s.chan .c1).rawLevel ∧ u.ticks < (s.chan .c1).debounceDeadline) s (after s) ∧
    (after s).nextOp = some (.update .c1, p) ∧ p.pin .c1 = (s.chan .c1).rawLevel ∧
    (s.chan .c1).debounceDeadline ≤ p.ticks :=
  ⟨by decide, .more ⟨rfl, op_ports (q := ask (.update .c1) 79999 0 true) rfl (by decide)⟩ rfl (.done _), rfl,
    by decide, by decide⟩

/-- A pending flag, an ISPRESSED, then two queries of the flag's class. -/
def readTwice (i : Instr) (sp lp : Bool) : State :=
  at1 (chan1 false 350000 false 80000 sp lp) (ask .now 0 0 false)
    [byBus (ask (.ispressed .c1) 0 0 false), byBus (ask i 0 0 false), byBus (ask i 0 0 false)]

theorem witness_ShortPressReadOnce :
    let s := readTwice (.isshort .c1) true false
    let p := ask (.isshort .c1) 0 0 false
    (s.chan .c1).shortPressPending = true ∧ RunWhile (State.noResetNo (.isshort .c1)) s (after s) ∧
    (after s).nextOp = some (.isshort .c1, p) ∧ step (after s) = .next (after (after s)) ∧
    RunWhile (fun u => ¬ u.releasesNext .c1) (after (after s)) (after (after s)) ∧
    (after (after s)).nextOp = some (.isshort .c1, p) :=
  ⟨rfl, .more ⟨rfl, not_op (j := .ispressed .c1) rfl (by decide)⟩ rfl (.done _), rfl, rfl, .done _, rfl⟩

theorem witness_LongPressReadOnce :
    let s := readTwice (.islong .c1) false true
    let p := ask (.islong .c1) 0 0 false
    (s.chan .c1).longPressPending = true ∧ RunWhile (State.noResetNo (.islong .c1)) s (after s) ∧
    (after s).nextOp = some (.islong .c1, p) ∧ step (after s) = .next (after (after s)) ∧
    RunWhile (fun u => ¬ u.releasesNext .c1) (after (after s)) (after (after s)) ∧
    (after (after s)).nextOp = some (.islong .c1, p) :=
  ⟨rfl, .more ⟨rfl, not_op (j := .ispressed .c1) rfl (by decide)⟩ rfl (.done _), rfl, rfl, .done _, rfl⟩

/-- Q7. -/
theorem witness_CoincidingReleaseAndQuery :
    let m := ask (.update .c1) 350000 0 false
    let b := ask (.isshort .c1) 0 0 false
    let s := at1 (chan1 false 350000 true 80000 false false) (ask .now 0 0 false) [⟨false, some m, some b⟩]
    s.program = ⟨false, some m, some b⟩ :: [] ∧ decode m.cmd = .ok (.update .c1) ∧
    decode b.cmd = .ok (.isshort .c1) ∧ (s.chan .c1).pressed = true ∧
    m.pin .c1 ≠ (s.params.chan .c1).pressedLevel ∧ m.pin .c1 = (s.chan .c1).rawLevel ∧
    (s.chan .c1).debounceDeadline ≤ m.ticks ∧
    m.ticks < (s.chan .c1).pressStartTick + (s.params.chan .c1).longPressThreshold := by decide

/-- A release at exactly the threshold, coinciding with ISLONG. -/
theorem witness_CoincidingLongReleaseAndQuery :
    let m := ask (.update .c1) 580000 0 false
    let b := ask (.islong .c1) 0 0 false
    let s := at1 (chan1 false 350000 true 80000 false false) (ask .now 0 0 false) [⟨false, some m, some b⟩]
    s.program = ⟨false, some m, some b⟩ :: [] ∧ decode m.cmd = .ok (.update .c1) ∧
    decode b.cmd = .ok (.islong .c1) ∧ (s.chan .c1).pressed = true ∧
    m.pin .c1 ≠ (s.params.chan .c1).pressedLevel ∧ m.pin .c1 = (s.chan .c1).rawLevel ∧
    (s.chan .c1).debounceDeadline ≤ m.ticks ∧
    (s.chan .c1).pressStartTick + (s.params.chan .c1).longPressThreshold ≤ m.ticks := by decide

theorem witness_IspressedIdempotent :
    let s := at1 (chan1 true 580000 true 80000 false false) (ask .now 0 0 false)
      [byBus (ask (.isshort .c1) 0 0 false), byBus (ask (.ispressed .c1) 0 0 false)]
    RunWhile (State.noResetNo (.update .c1)) s (after s) ∧
    (after s).nextOp = some (.ispressed .c1, ask (.ispressed .c1) 0 0 false) :=
  ⟨.more ⟨rfl, not_op (j := .isshort .c1) rfl (by decide)⟩ rfl (.done _), rfl⟩

/-- Pressed since tick 80,000 with the release pending, and an UPDATE at tick `t` to come. -/
def releaseAt (t : Tick) : State :=
  at1 (chan1 false 350000 true 80000 false false) (ask .now 0 0 false) [byMain (ask (.update .c1) t 0 false)]

/-- The steps that change each register: NOW, an accepted press, a release, and the two clears. -/
theorem witness_OnlyTheseEventsChangeRegisters :
    (let s := booted [byMain (ask .now 0 7 false)]
     step s = .next (after s) ∧ s.resetsNext = false ∧ (after s).ts ≠ s.ts) ∧
    (let s := after pressProgram
     step s = .next (after s) ∧ s.resetsNext = false ∧ ((after s).chan .c1).pressed ≠ (s.chan .c1).pressed) ∧
    (let s := releaseAt 350000
     step s = .next (after s) ∧ s.resetsNext = false ∧ (s.chan .c1).shortPressPending = false ∧
       ((after s).chan .c1).shortPressPending = true) ∧
    (let s := releaseAt 580000
     step s = .next (after s) ∧ s.resetsNext = false ∧ (s.chan .c1).longPressPending = false ∧
       ((after s).chan .c1).longPressPending = true) ∧
    (let s := after (readTwice (.isshort .c1) true false)
     step s = .next (after s) ∧ s.resetsNext = false ∧ (s.chan .c1).shortPressPending = true ∧
       ((after s).chan .c1).shortPressPending = false) ∧
    (let s := after (readTwice (.islong .c1) false true)
     step s = .next (after s) ∧ s.resetsNext = false ∧ (s.chan .c1).longPressPending = true ∧
       ((after s).chan .c1).longPressPending = false) :=
  ⟨⟨rfl, rfl, by decide⟩, ⟨rfl, rfl, by decide⟩, ⟨rfl, rfl, rfl, rfl⟩, ⟨rfl, rfl, rfl, rfl⟩, ⟨rfl, rfl, rfl, rfl⟩,
    ⟨rfl, rfl, rfl, rfl⟩⟩

theorem witness_ParametersNeverWritten :
    let s := booted [{ rst := true, main := none, bus := none }]
    step s = .next (after s) := rfl

/-- In a debounce window, with a NOW and a raw change in the past; the next step accepts the press. -/
theorem witness_RegistersRecordPastKept :
    let s : State := { at1 (chan1 true 51000 false 0 false false) (ask .now 0 0 false)
      [byMain (ask (.update .c1) 51000 0 true)] with ts := ⟨5, 1⟩ }
    let h : History := { lastSample := some 5, wraps := 1, c0 := ChanHistory.empty, c1 := ⟨some 1, some 1000, none⟩ }
    s.recordsPast h ∧ step s = .next (after s) := by
  refine ⟨⟨rfl, rfl, fun ch => ?_⟩, rfl⟩
  cases ch
  · exact ⟨rfl, rfl, fun h => absurd h (by decide)⟩
  · exact ⟨rfl, rfl, fun _ => ⟨1000#64, rfl, by decide⟩⟩

theorem witness_ResetStep :
    let e : Instant := { rst := true, main := some (ask .now 0 9 false), bus := some (ask (.islong .c0) 0 0 false) }
    (booted [e]).program = ⟨true, some (ask .now 0 9 false), some (ask (.islong .c0) 0 0 false)⟩ :: [] ∧
      step (booted [e]) = .next (after (booted [e])) := ⟨rfl, rfl⟩

/-- The reset registers with each level on the pins. -/
theorem witness_FirstOperationsAfterReset :
    ∀ a : Bool,
      let s := (booted []).present (ask (.update .c0) 1000 9 a)
      s.ts = TickSource.afterReset ∧ s.chan .c0 = Channel.afterReset (s.params.chan .c0) ∧
      s.chan .c1 = Channel.afterReset (s.params.chan .c1) ∧
      (a = false → s.ports.pin .c0 ≠ (s.params.chan .c0).pressedLevel) ∧
      (a = true → s.ports.pin .c0 = (s.params.chan .c0).pressedLevel ∧
        s.ports.ticks < s.ports.ticks + (s.params.chan .c0).debounceDelay) := by decide

end Sys2Proof.Tests
end

/-! The encoding (30_encoding.md R50 to R56): a command word is its three fields, so each statement about words is one
about fields. -/

namespace Sys2Proof

/-! ### The fields of a command word (R50) -/

theorem commandFields_z_toNat (w : Command) : (commandFields w).z.toNat = w.toNat / 16 := by
  simp only [commandFields, BitVec.extractLsb'_toNat, Nat.shiftRight_eq_div_pow]
  omega

theorem commandFields_ch_toNat (w : Command) : (commandFields w).ch.toNat = w.toNat / 8 % 2 := by
  simp only [commandFields, BitVec.extractLsb'_toNat, Nat.shiftRight_eq_div_pow]

theorem commandFields_op_toNat (w : Command) : (commandFields w).op.toNat = w.toNat % 8 := by
  simp only [commandFields, BitVec.extractLsb'_toNat, Nat.shiftRight_eq_div_pow]
  omega

/-- The three fields hold every bit of the word. -/
theorem commandFields_injective : Function.Injective commandFields := by
  intro v w h
  have hz := commandFields_z_toNat v
  have hch := commandFields_ch_toNat v
  have hop := commandFields_op_toNat v
  rw [h, commandFields_z_toNat] at hz
  rw [h, commandFields_ch_toNat] at hch
  rw [h, commandFields_op_toNat] at hop
  apply BitVec.eq_of_toNat_eq
  omega

theorem commandFields_z_eq_zero_iff (w : Command) : (commandFields w).z = 0#4 ↔ w < 0x10#8 := by
  rw [← BitVec.toNat_inj, BitVec.lt_def, commandFields_z_toNat, BitVec.toNat_ofNat, BitVec.toNat_ofNat]
  omega

/-! ### The decoder and the encoder (R55) -/

/-- The fields of an operation's command word (R55). -/
def fieldsOf (i : Instr) : Fields := { z := 0#4, ch := channelField i, op := opcode i }

theorem commandFields_encode (i : Instr) : commandFields (encode i) = fieldsOf i := by
  cases i with
  | now => rfl
  | update ch | ispressed ch | isshort ch | islong ch => cases ch <;> rfl

theorem channelBit_channelOfBit (b : BitVec 1) : channelBit (channelOfBit b) = b := by
  obtain rfl | rfl := b.eq_zero_or_eq_one <;> rfl

theorem fieldsOf_of_decodeFields {f : Fields} {i : Instr} (h : decodeFields f = .ok i) : fieldsOf i = f := by
  obtain ⟨z, ch, op⟩ := f
  unfold decodeFields at h
  split_ifs at h <;> cases h <;> simp_all only [fieldsOf, channelField, opcode, channelBit_channelOfBit, not_not]

/-- A word is legal exactly as the command word of the operation it decodes to. -/
theorem decode_eq_ok_iff (w : Command) (i : Instr) : decode w = .ok i ↔ w = encode i := by
  constructor
  · intro h
    apply commandFields_injective
    rw [commandFields_encode, fieldsOf_of_decodeFields h]
  · rintro rfl
    exact Machine.decode_encode i

/-! ### The reserved classes (R56) -/

theorem decodeFields_eq_zNotZero_iff (f : Fields) : decodeFields f = .error .zNotZero ↔ f.z ≠ 0#4 := by
  unfold decodeFields
  split_ifs with hz <;> simp [hz]

theorem decodeFields_eq_opUnassigned_iff (f : Fields) :
    decodeFields f = .error .opUnassigned ↔ f.z = 0#4 ∧ 4#3 < f.op := by
  unfold decodeFields
  split_ifs <;> simp only [Except.error.injEq, reduceCtorEq, true_iff, false_iff] <;> bv_omega

theorem decodeFields_eq_nowChannelBit_iff (f : Fields) :
    decodeFields f = .error .nowChannelBit ↔ f.z = 0#4 ∧ f.op = 0#3 ∧ f.ch = 1#1 := by
  unfold decodeFields
  split_ifs <;> simp only [Except.error.injEq, reduceCtorEq, true_iff, false_iff] <;> bv_omega

theorem decode_eq_zNotZero_iff (w : Command) : decode w = .error .zNotZero ↔ 0x10#8 ≤ w := by
  rw [decode, decodeFields_eq_zNotZero_iff, ne_eq, commandFields_z_eq_zero_iff, BitVec.not_lt]

theorem decode_eq_opUnassigned_iff (w : Command) :
    decode w = .error .opUnassigned ↔ w ∈ [0x05#8, 0x06#8, 0x07#8, 0x0D#8, 0x0E#8, 0x0F#8] := by
  rw [decode, decodeFields_eq_opUnassigned_iff, commandFields_z_eq_zero_iff, BitVec.lt_def, BitVec.lt_def,
    commandFields_op_toNat]
  simp only [List.mem_cons, List.not_mem_nil, or_false, ← BitVec.toNat_inj, BitVec.toNat_ofNat]
  omega

theorem decode_eq_nowChannelBit_iff (w : Command) : decode w = .error .nowChannelBit ↔ w = 0x08#8 := by
  rw [decode, decodeFields_eq_nowChannelBit_iff, commandFields_z_eq_zero_iff, BitVec.lt_def, ← BitVec.toNat_inj,
    ← BitVec.toNat_inj, ← BitVec.toNat_inj, commandFields_op_toNat, commandFields_ch_toNat]
  simp only [BitVec.toNat_ofNat]
  omega

theorem not_isOk_of_le {n : Nat} (hlo : 16 ≤ n) (hhi : n < 256) : (decode (BitVec.ofNat 8 n)).isOk = false := by
  have hz : decode (BitVec.ofNat 8 n) = .error .zNotZero := by
    rw [decode_eq_zNotZero_iff, BitVec.le_def, BitVec.toNat_ofNat, BitVec.toNat_ofNat]
    omega
  rw [hz]
  rfl

/-- 7 of the words below `0x10`, and all 240 from there on (R56). -/
theorem reserved_count : ((List.range 256).filter fun n => !(decode (BitVec.ofNat 8 n)).isOk).length = 247 := by
  have hlow : ((List.range 16).filter fun n => !(decode (BitVec.ofNat 8 n)).isOk).length = 7 := by decide
  have hhigh : ((List.range' 16 240).filter fun n => !(decode (BitVec.ofNat 8 n)).isOk) = List.range' 16 240 := by
    rw [List.filter_eq_self]
    intro n hn
    obtain ⟨hlo, hhi⟩ := List.mem_range'_1.mp hn
    rw [not_isOk_of_le hlo hhi]
    rfl
  have hsplit : List.range 256 = List.range 16 ++ List.range' 16 240 := by
    rw [List.range_eq_range', List.range_eq_range', List.range'_append_1]
  rw [hsplit, List.filter_append, List.length_append, hlow, hhigh, List.length_range']

/-- A step whose turn is an operation with a reserved word refuses it (R94). -/
theorem Machine.step_of_reserved {s t : Machine.State} {p : Machine.Ports} {e : Reserved}
    (hturn : s.nextTurn = .operation p t) (hd : decode p.cmd = .error e) :
    Machine.step s = .refused (.reservedCommand p.cmd) := by
  simp only [Machine.step, hturn, Machine.State.perform, hd]

/-- Settles O2: each operation has one row, its command word, and a word is legal only as such a row. -/
theorem opcodeMapNineWords : Obligations.OpcodeMapNineWords := by
  intro w i
  rw [decode_eq_ok_iff]
  cases i with
  | now => simp [encode, channelField, opcode]
  | update ch | ispressed ch | isshort ch | islong ch =>
    cases ch <;> simp [encode, channelField, channelBit, opcode]

/-- Settles O3: the three classes of R56, their number and the refusal. -/
theorem reservedWordsRefused : Obligations.ReservedWordsRefused :=
  ⟨decode_eq_zNotZero_iff, decode_eq_opUnassigned_iff, decode_eq_nowChannelBit_iff, reserved_count,
    fun _ _ _ _ => Machine.step_of_reserved⟩

end Sys2Proof

/-! NOW (40_tick_source.md R63). -/

namespace Sys2Proof

namespace Machine

/-- NOW's meaning through the state's own operations. -/
theorem exec_now (s : State) :
    exec .now s =
      .next ((s.setTickSource (s.ts.sample s.ports.cnt32)).deliver (s.ts.sample s.ports.cnt32).tick) :=
  rfl

/-- The tick after a sample holds the counter as the wrap test left it, shifted over the sample (R63). -/
theorem TickSource.tick_sample (t : TickSource) (x : Sample) :
    (t.sample x).tick =
      ((if x < t.prev32 then t.ovf32 + 1#32 else t.ovf32).setWidth 64 <<< 32) ||| x.setWidth 64 :=
  composeTick_eq_shift_or _ x

end Machine

/-- Settles O14: the tick of the new TickSource is its two words shifted and or'ed, and no other field is written. -/
theorem nowResult : Obligations.NowResult := by
  intro s
  rw [Machine.exec_now, Machine.TickSource.tick_sample]
  rfl

end Sys2Proof

/-! UPDATE (41_button_update.md R70 to R76): one equation for each of its four cases, given the deadline that the level
filter leaves. -/

namespace Sys2Proof

namespace Machine

/-- UPDATE's meaning through the state's own operations. -/
theorem exec_update (s : State) (ch : ChanId) :
    exec (.update ch) s =
      .next ((s.setChan ch
        ((s.chan ch).update (s.params.chan ch) s.ports.ticks (s.ports.pin ch))).deliver 0#64) :=
  rfl

theorem Channel.filter_eq (p : ChanParams) (c : Channel) (t : Tick) (r : Level) :
    c.filter p t r =
      { c with
        rawLevel := r
        debounceDeadline := if r = c.rawLevel then c.debounceDeadline else t + p.debounceDelay } := by
  rw [Channel.filter, ite_not]

/-- The comparator after the filter, on the sampled level (R72). -/
theorem Channel.filter_accepts_iff (p : ChanParams) (c : Channel) (t : Tick) (r : Level) :
    (c.filter p t r).accepts p t = true ↔
      (c.filter p t r).debounceDeadline ≤ t ∧ ¬ (r = p.pressedLevel ↔ c.pressed = true) := by
  have hactive : active p r = c.pressed ↔ (r = p.pressedLevel ↔ c.pressed = true) := by
    rw [Bool.eq_iff_iff, active, decide_eq_true_iff]
  rw [Channel.accepts_iff, Channel.filter_rawLevel, Channel.filter_pressed, ne_eq, hactive]

section

variable {p : ChanParams} {c : Channel} {t : Tick} {r : Level}

/-- Below the deadline, or at a level that agrees with `pressed`, the level filter is all of the UPDATE. -/
theorem Channel.update_eq_filter
    (h : t < (c.filter p t r).debounceDeadline ∨ (r = p.pressedLevel ↔ c.pressed = true)) :
    c.update p t r = c.filter p t r := by
  have hn : ¬ (c.filter p t r).accepts p t = true := by
    rw [Channel.filter_accepts_iff]
    rintro ⟨hd, hne⟩
    exact h.elim (BitVec.not_lt.mpr hd) hne
  rw [Channel.update, Channel.accept, if_neg hn]

/-- From the deadline on, a level that disagrees with `pressed` is an edge, whose kind the old `pressed` decides (R72). -/
theorem Channel.update_eq_edge (hd : (c.filter p t r).debounceDeadline ≤ t)
    (hne : ¬ (r = p.pressedLevel ↔ c.pressed = true)) :
    c.update p t r = if c.pressed then (c.filter p t r).release p t else (c.filter p t r).press p t := by
  have ha : (c.filter p t r).accepts p t = true := (Channel.filter_accepts_iff p c t r).mpr ⟨hd, hne⟩
  rw [Channel.update, Channel.accept, if_pos ha, Channel.filter_pressed]

/-- An accepted active level (R73). -/
theorem Channel.update_eq_press (hd : (c.filter p t r).debounceDeadline ≤ t) (hr : r = p.pressedLevel)
    (hp : c.pressed = false) : c.update p t r = (c.filter p t r).press p t := by
  rw [Channel.update_eq_edge hd (by simp [hr, hp]), hp]
  rfl

/-- An accepted inactive level (R74). -/
theorem Channel.update_eq_release (hd : (c.filter p t r).debounceDeadline ≤ t) (hr : r ≠ p.pressedLevel)
    (hp : c.pressed = true) : c.update p t r = (c.filter p t r).release p t := by
  rw [Channel.update_eq_edge hd (by simp [hr, hp]), hp]
  rfl

/-- A release at or after the press's tick plus the threshold (R75, R76). -/
theorem Channel.release_eq_long (c : Channel) (h : c.pressStartTick + p.longPressThreshold ≤ t) :
    c.release p t = { c with pressed := false, longPressPending := true } := by
  have hl : c.heldLong p t = true := (Channel.heldLong_iff p c t).mpr h
  simp [Channel.release, hl]

/-- A release below the press's tick plus the threshold (R75). -/
theorem Channel.release_eq_short (c : Channel) (h : t < c.pressStartTick + p.longPressThreshold) :
    c.release p t = { c with pressed := false, shortPressPending := true } := by
  have hl : c.heldLong p t = false := by
    rw [Bool.eq_false_iff, ne_eq, Channel.heldLong_iff]
    exact BitVec.not_le.mpr h
  simp [Channel.release, hl]

end

end Machine

open Machine in
/-- Settles O19: one of the four cases' equations for each clause, with the filter written out. -/
theorem updateResult : Obligations.UpdateResult := by
  intro s ch c P t r d
  have hf : c.filter P t r = { c with rawLevel := r, debounceDeadline := d } := Channel.filter_eq P c t r
  have hd : (c.filter P t r).debounceDeadline = d := congrArg Channel.debounceDeadline hf
  have hexec : exec (.update ch) s = .next ((s.setChan ch (c.update P t r)).deliver 0#64) := exec_update s ch
  rw [hexec]
  refine ⟨fun h => ?_, fun hdt hr hp => ?_, fun hdt hr hp hlong => ?_, fun hdt hr hp hshort => ?_⟩
  · rw [Channel.update_eq_filter (hd ▸ h), hf]
  · rw [Channel.update_eq_press (hd ▸ hdt) hr hp, hf, Channel.press]
  · rw [Channel.update_eq_release (hd ▸ hdt) hr hp, (c.filter P t r).release_eq_long hlong, hf]
  · rw [Channel.update_eq_release (hd ▸ hdt) hr hp, (c.filter P t r).release_eq_short hshort, hf]

open Machine in
/-- Settles O20: the comparison of the long-release case includes its bound. -/
theorem thresholdBoundaryIsLong : Obligations.ThresholdBoundaryIsLong := by
  intro s ch hp hr hne hd ht
  obtain ⟨-, -, hlong, -⟩ := updateResult s ch
  rw [if_pos hr] at hlong
  exact ⟨_, hlong hd hne hp (BitVec.le_of_eq ht.symm), by simp⟩

end Sys2Proof

/-! The queries (42_button_query.md R85 to R87). -/

namespace Sys2Proof

namespace Machine

/-- ISPRESSED's meaning through the state's own operations. -/
theorem exec_ispressed (s : State) (ch : ChanId) :
    exec (.ispressed ch) s = .next (s.deliver (zextBool (s.chan ch).pressed)) :=
  rfl

/-- ISSHORT's meaning through the state's own operations. -/
theorem exec_isshort (s : State) (ch : ChanId) :
    exec (.isshort ch) s =
      .next ((s.setChan ch { s.chan ch with shortPressPending := false }).deliver
        (zextBool (s.chan ch).shortPressPending)) :=
  rfl

/-- ISLONG's meaning through the state's own operations. -/
theorem exec_islong (s : State) (ch : ChanId) :
    exec (.islong ch) s =
      .next ((s.setChan ch { s.chan ch with longPressPending := false }).deliver
        (zextBool (s.chan ch).longPressPending)) :=
  rfl

/-- A query's result is the 64-bit word 1 or 0 of the bit it reads. -/
theorem zextBool_eq_ite (b : Bool) : zextBool b = if b then 1#64 else 0#64 :=
  rfl

end Machine

/-- Settles O30: the debounced state is the result, and no register is written. -/
theorem ispressedResult : Obligations.IspressedResult := by
  intro s ch
  rw [Machine.exec_ispressed, Machine.zextBool_eq_ite]

/-- Settles O31: the short flag is read in the state before the clear. -/
theorem isshortResult : Obligations.IsshortResult := by
  intro s ch
  rw [Machine.exec_isshort, Machine.zextBool_eq_ite]

/-- Settles O32: the long flag is read in the state before the clear. -/
theorem islongResult : Obligations.IslongResult := by
  intro s ch
  rw [Machine.exec_islong, Machine.zextBool_eq_ite]

end Sys2Proof

/-! Exceptions (60_exceptions.md R94): a run is the run of its first steps followed by the run of the rest, so a refusal
met after some steps is the outcome of every longer run. -/

namespace Sys2Proof

namespace Machine

/-- A run that answers a state took a first step that completed. -/
theorem exists_step_of_runSteps_succ {k : Nat} {s t : State} (h : runSteps (k + 1) s = .next t) :
    ∃ u, step s = .next u ∧ runSteps k u = .next t := by
  cases hs : step s with
  | next u => exact ⟨u, rfl, runSteps_of_next k hs ▸ h⟩
  | fault f => cases f
  | refused r => rw [runSteps_of_refused k hs] at h; cases h

/-- Once `k` steps have reached `t`, a longer run goes on as a run from `t`. -/
theorem runSteps_add_of_next {k : Nat} {s t : State} (n : Nat) (h : runSteps k s = .next t) :
    runSteps (k + n) s = runSteps n t := by
  induction k generalizing s with
  | zero => cases h; rw [Nat.zero_add]
  | succ k ih =>
    obtain ⟨u, hs, hu⟩ := exists_step_of_runSteps_succ h
    rw [Nat.succ_add, runSteps_of_next (k + n) hs, ih hu]

end Machine

/-- Settles O4: the longer run goes on from the reached state, and its first step there refuses the reserved word. -/
theorem refusalMarksTheRun : Obligations.RefusalMarksTheRun := by
  intro k m s t u p e hrun hturn hd
  have hrefused : Machine.step t = .refused (.reservedCommand p.cmd) := Machine.step_of_reserved hturn hd
  calc Machine.runSteps (k + 1 + m) s
      = Machine.runSteps (k + (m + 1)) s := by rw [Nat.add_right_comm, Nat.add_assoc]
    _ = Machine.runSteps (m + 1) t := Machine.runSteps_add_of_next (m + 1) hrun
    _ = .refused (.reservedCommand p.cmd) := Machine.runSteps_of_refused m hrefused

end Sys2Proof

/-! The step (20_memory.md R45 to R47, 60_exceptions.md R93 to R100): one equation for each shape of the program's head,
then legal programs and the order of the operations. -/

namespace Sys2Proof

/-- Settles O1: the decoder's legal words are the encoder's words, one for each operation. -/
theorem decodeEncodeAgree : Obligations.DecodeEncodeAgree :=
  ⟨Machine.decode_encode, fun w i h => ((decode_eq_ok_iff w i).mp h).symm⟩

namespace Machine

/-! ### The next turn, by the head of the program -/

theorem State.nextTurn_of_nil {s : State} (h : s.program = []) : s.nextTurn = .idle s := by
  rw [State.nextTurn, h]

theorem State.nextTurn_of_reset {s : State} {main bus : Option Ports} {rest : List Instant}
    (h : s.program = ⟨true, main, bus⟩ :: rest) : s.nextTurn = .reset (s.withProgram rest) := by
  rw [State.nextTurn, h]
  rfl

theorem State.nextTurn_of_no_request {s : State} {rest : List Instant} (h : s.program = ⟨false, none, none⟩ :: rest) :
    s.nextTurn = .idle (s.withProgram rest) := by
  rw [State.nextTurn, h]
  rfl

/-- One request at an instant is the next operation, whichever context makes it (R100). -/
theorem State.nextTurn_of_instant {s : State} {c : Context} {p : Ports} {rest : List Instant}
    (h : s.program = c.instant p :: rest) : s.nextTurn = .operation p (s.withProgram rest) := by
  rw [State.nextTurn, h]
  cases c <;> rfl

theorem State.nextTurn_of_both {s : State} {m b : Ports} {rest : List Instant}
    (h : s.program = ⟨false, some m, some b⟩ :: rest) : s.nextTurn = s.arbitrate m b rest := by
  rw [State.nextTurn, h]
  rfl

/-! ### The step, by the next turn -/

theorem step_of_idle {s u : State} (h : s.nextTurn = .idle u) : step s = .next u.deliverNone := by
  rw [step, h]

theorem step_of_reset {s u : State} (h : s.nextTurn = .reset u) : step s = .next u.applyReset := by
  rw [step, h]

theorem step_of_operation {s u : State} {p : Ports} {i : Instr} (h : s.nextTurn = .operation p u)
    (hd : decode p.cmd = .ok i) : step s = exec i (u.present p) := by
  simp only [step, h, State.perform, hd]

theorem nextOp_of_operation {s u : State} {p : Ports} {i : Instr} (h : s.nextTurn = .operation p u)
    (hd : decode p.cmd = .ok i) : s.nextOp = some (i, p) := by
  simp only [State.nextOp, h, hd]

end Machine

open Machine in
/-- Settles O5: a single request of either context makes the turn that operation. -/
theorem stepRunsDecodedOperation : Obligations.StepRunsDecodedOperation := by
  refine ⟨fun s p rest i hprog hd => ?_, fun s t p i hturn hd => step_of_operation hturn hd⟩
  obtain hmain | hbus := hprog
  · exact step_of_operation (State.nextTurn_of_instant (c := .main) hmain) hd
  · exact step_of_operation (State.nextTurn_of_instant (c := .bus) hbus) hd

open Machine in
/-- Settles O6: both programs make an idle turn. -/
theorem idleStepChangesNoRegister : Obligations.IdleStepChangesNoRegister :=
  ⟨fun _ h => step_of_idle (State.nextTurn_of_nil h), fun _ _ h => step_of_idle (State.nextTurn_of_no_request h)⟩

open Machine in
/-- Settles O7: by the turn, and for an operation by its command word; no operation's meaning stops. -/
theorem stepCompletesOrRefusesReserved : Obligations.StepCompletesOrRefusesReserved := by
  intro s
  obtain ⟨u, -, hidle | hreset | ⟨p, hop⟩⟩ := s.nextTurn_cases
  · exact .inl ⟨_, step_of_idle hidle⟩
  · exact .inl ⟨_, step_of_reset hreset⟩
  · cases hd : decode p.cmd with
    | ok i =>
      obtain ⟨t, ht⟩ := exec_completes i (u.present p)
      exact .inl ⟨t, (step_of_operation hop hd).trans ht⟩
    | error e => exact .inr ⟨p, u, e, hop, hd, step_of_reserved hop hd⟩

open Machine in
/-- Settles O13: either request makes the same turn. -/
theorem contextIsNotChecked : Obligations.ContextIsNotChecked := by
  intro s p rest
  have hmain : (s.withProgram (⟨false, some p, none⟩ :: rest)).nextTurn = .operation p (s.withProgram rest) :=
    State.nextTurn_of_instant (c := .main) rfl
  have hbus : (s.withProgram (⟨false, none, some p⟩ :: rest)).nextTurn = .operation p (s.withProgram rest) :=
    State.nextTurn_of_instant (c := .bus) rfl
  rw [step, step, hmain, hbus]

/-! ### Legal programs (R94, R96) -/

namespace Machine

/-- A turn presents no reserved word, and leaves none to come. -/
def Turn.legal : Turn → Bool
  | .idle s => s.legalProgram
  | .reset s => s.legalProgram
  | .operation p s => p.legal && s.legalProgram

theorem Ports.legal_iff (p : Ports) : p.legal = true ↔ ∃ i, decode p.cmd = .ok i := by
  rw [Ports.legal]
  cases decode p.cmd <;> simp [Except.isOk, Except.toBool]

theorem State.legalProgram_cons {s : State} {e : Instant} {rest : List Instant} (h : s.program = e :: rest) :
    s.legalProgram = (e.legal && (s.withProgram rest).legalProgram) := by
  rw [State.legalProgram, h]
  rfl

theorem State.legalProgram_congr {s t : State} (h : t.program = s.program) : t.legalProgram = s.legalProgram := by
  rw [State.legalProgram, State.legalProgram, h]

/-- Whichever of two coinciding requests goes first, the other stands at the head of what is left (logs 7, 8). -/
theorem State.arbitrate_legal (s : State) {m b : Ports} {rest : List Instant} (hm : m.legal = true)
    (hb : b.legal = true) (hrest : (s.withProgram rest).legalProgram = true) : (s.arbitrate m b rest).legal = true := by
  have hmain : (s.drawn.withProgram (⟨false, some m, none⟩ :: rest)).legalProgram = true := by
    rw [State.legalProgram_cons rfl, Bool.and_eq_true]
    exact ⟨by simp [Instant.legal, hm], hrest⟩
  have hbus : (s.drawn.withProgram (⟨false, none, some b⟩ :: rest)).legalProgram = true := by
    rw [State.legalProgram_cons rfl, Bool.and_eq_true]
    exact ⟨by simp [Instant.legal, hb], hrest⟩
  rw [State.arbitrate]
  split
  · simp [Turn.legal, hb, hmain]
  · simp [Turn.legal, hm, hbus]

theorem State.nextTurn_legal {s : State} (h : s.legalProgram = true) : s.nextTurn.legal = true := by
  cases hprog : s.program with
  | nil => rw [State.nextTurn_of_nil hprog]; exact h
  | cons e rest =>
    obtain ⟨rst, main, bus⟩ := e
    rw [State.legalProgram_cons hprog, Bool.and_eq_true] at h
    obtain ⟨he, hrest⟩ := h
    cases rst with
    | true => rw [State.nextTurn_of_reset hprog]; exact hrest
    | false =>
      match main, bus with
      | none, none => rw [State.nextTurn_of_no_request hprog]; exact hrest
      | some m, none =>
        rw [State.nextTurn_of_instant (c := .main) hprog, Turn.legal, hrest]
        simpa [Instant.legal] using he
      | none, some b =>
        rw [State.nextTurn_of_instant (c := .bus) hprog, Turn.legal, hrest]
        simpa [Instant.legal] using he
      | some m, some b =>
        rw [State.nextTurn_of_both hprog]
        have hboth : m.legal = true ∧ b.legal = true := by simpa [Instant.legal] using he
        exact s.arbitrate_legal hboth.1 hboth.2 hrest

/-- A step of a legal program answers a next state, whose program is legal. -/
theorem step_of_legalProgram {s : State} (h : s.legalProgram = true) :
    ∃ t, step s = .next t ∧ t.legalProgram = true := by
  have hlegal := State.nextTurn_legal h
  obtain ⟨u, -, hidle | hreset | ⟨p, hop⟩⟩ := s.nextTurn_cases
  · rw [hidle] at hlegal
    exact ⟨_, step_of_idle hidle, hlegal⟩
  · rw [hreset] at hlegal
    exact ⟨_, step_of_reset hreset, hlegal⟩
  · rw [hop, Turn.legal, Bool.and_eq_true] at hlegal
    obtain ⟨hp, hu⟩ := hlegal
    obtain ⟨i, hd⟩ := p.legal_iff.mp hp
    obtain ⟨t, ht⟩ := exec_completes i (u.present p)
    obtain ⟨-, -, hprogram, -⟩ := exec_keeps ht
    exact ⟨t, (step_of_operation hop hd).trans ht, (State.legalProgram_congr hprogram).trans hu⟩

end Machine

open Machine in
/-- Settles O9: the one next state of a legal program has a legal program. -/
theorem legalProgramKept : Obligations.LegalProgramKept := by
  intro s t hlegal hstep
  obtain ⟨u, hu, hkept⟩ := step_of_legalProgram hlegal
  rw [hstep] at hu
  cases hu
  exact hkept

open Machine in
/-- Settles O8, by induction on the number of steps. -/
theorem legalProgramNeverStops : Obligations.LegalProgramNeverStops := by
  intro k
  induction k with
  | zero => exact fun s _ => ⟨s, rfl⟩
  | succ k ih =>
    intro s hlegal
    obtain ⟨u, hu, hkept⟩ := step_of_legalProgram hlegal
    rw [runSteps_of_next k hu]
    exact ih u hkept

/-- Settles O10: the program placed at reset is empty. -/
theorem resetProgramLegal : Obligations.ResetProgramLegal :=
  rfl

/-! ### The total order of the operations (R46, R47) -/

namespace Machine

/-- An operation neither reads nor writes what the environment has still to present. -/
theorem exec_withProgram {i : Instr} {s t : State} (h : exec i s = .next t) (rest : List Instant) :
    exec i (s.withProgram rest) = .next (t.withProgram rest) := by
  cases i with
  | now | ispressed ch => cases h; rfl
  | update ch | isshort ch | islong ch => cases h; cases ch <;> rfl

/-- An operation whose turn leaves a single request at the head is followed by that request's operation. -/
theorem step_twice {s w : State} {p q : Ports} {i j : Instr} {c : Context} {rest : List Instant}
    (hturn : s.nextTurn = .operation p w) (hw : w.program = c.instant q :: rest) (hp : decode p.cmd = .ok i)
    (hq : decode q.cmd = .ok j) :
    ∃ u v, step s = .next u ∧ step u = .next v ∧
      exec i (w.present p) = .next u ∧ exec j ((u.withProgram rest).present q) = .next v := by
  obtain ⟨u, hu⟩ := exec_completes i (w.present p)
  obtain ⟨-, -, hprogram, -⟩ := exec_keeps hu
  obtain ⟨v, hv⟩ := exec_completes j ((u.withProgram rest).present q)
  have hnext : u.nextTurn = .operation q (u.withProgram rest) := State.nextTurn_of_instant (hprogram.trans hw)
  exact ⟨u, v, (step_of_operation hturn hp).trans hu, (step_of_operation hnext hq).trans hv, hu, hv⟩

end Machine

open Machine in
/-- Settles O11, by induction on the requests: the first step performs the first operation, which leaves the other
requests where they are. -/
theorem operationsTakeEffectInOrder : Obligations.OperationsTakeEffectInOrder := by
  intro xs rest
  induction xs with
  | nil =>
    intro s _ hprog
    have hs : s.withProgram rest = s := congrArg s.withProgram hprog.symm
    exact congrArg _ hs.symm
  | cons x xs ih =>
    intro s hdec hprog
    obtain ⟨hx, hxs⟩ := List.forall_mem_cons.mp hdec
    obtain ⟨t, ht⟩ := exec_completes x.2.2 ((s.withProgram (xs.map (fun x => x.1.instant x.2.1) ++ rest)).present x.2.1)
    obtain ⟨-, -, hprogram, -⟩ := exec_keeps ht
    have hstep : step s = .next t := (step_of_operation (State.nextTurn_of_instant hprog) hx).trans ht
    have hfirst : exec x.2.2 ((s.withProgram rest).present x.2.1) = .next (t.withProgram rest) :=
      exec_withProgram ht rest
    rw [List.length_cons, runSteps_of_next _ hstep, List.foldl_cons, ih t hxs hprogram]
    dsimp only
    rw [hfirst]

open Machine in
/-- Settles O12, by the free order: after either first operation the other request is alone at the head. -/
theorem coincidingRequestsBothPerformed : Obligations.CoincidingRequestsBothPerformed := by
  intro s m b rest i j hprog hm hb
  have hturn := State.nextTurn_of_both hprog
  rw [State.arbitrate] at hturn
  split at hturn
  · exact .inr (step_twice (c := .main) hturn rfl hb hm)
  · exact .inl (step_twice (c := .bus) hturn rfl hm hb)

end Sys2Proof

/-! Time (40_tick_source.md R63 to R66): only NOW moves the TickSource, and a sample moves its tick forward unless the
overflow counter wraps. -/

namespace Sys2Proof

namespace Machine

/-! ### What a step leaves of the TickSource -/

/-- No operation but NOW writes the TickSource (R67, R83, R89). -/
theorem exec_keeps_ts {i : Instr} {s t : State} (h : exec i s = .next t) (hi : i ≠ .now) : t.ts = s.ts := by
  cases i with
  | now => exact absurd rfl hi
  | ispressed ch => cases h; rfl
  | update ch | isshort ch | islong ch => cases h; cases ch <;> rfl

/-- A step that is neither a RESET nor a NOW keeps the TickSource (R21, R22). -/
theorem step_keeps_ts {s t : State} (h : step s = .next t) (hr : s.resetsNext = false)
    (hno : ∀ p, s.nextOp ≠ some (.now, p)) : t.ts = s.ts := by
  obtain ⟨u, ⟨hts, -⟩, ⟨-, -, -, rfl⟩ | ⟨-, -, hn, -⟩ | ⟨p, i, -, -, hop, -, hexec⟩⟩ := step_cases h
  · exact hts
  · rw [hr] at hn; cases hn
  · exact (exec_keeps_ts hexec fun hnow => hno p (hnow ▸ hop)).trans hts

/-- What a step that performs NOW answers, known as the step's next state. -/
theorem now_of_step {s t : State} {p : Ports} (h : step s = .next t) (hop : s.nextOp = some (.now, p)) :
    t.ts = s.ts.sample p.cnt32 ∧ t.result = some (s.ts.sample p.cnt32).tick := by
  obtain ⟨u, hu, hts, hresult, -⟩ := step_now hop
  rw [h] at hu
  cases hu
  exact ⟨hts, hresult⟩

theorem RunWhile.keeps_ts {s t : State} (h : RunWhile State.noNowNoReset s t) : t.ts = s.ts :=
  h.keeps (Inv := fun u => u.ts = s.ts)
    (fun _ _ hno hinv hstep => (step_keeps_ts hstep hno.1 hno.2).trans hinv) rfl

/-! ### The tick as a number -/

@[simp] theorem TickSource.sample_prev32 (t : TickSource) (x : Sample) : (t.sample x).prev32 = x := rfl

theorem TickSource.sample_ovf32 (t : TickSource) (x : Sample) :
    (t.sample x).ovf32 = if x < t.prev32 then t.ovf32 + 1#32 else t.ovf32 := rfl

theorem TickSource.tick_toNat (t : TickSource) : t.tick.toNat = t.ovf32.toNat * 2 ^ 32 + t.prev32.toNat :=
  composeTick_toNat t.ovf32 t.prev32

theorem TickSource.tick_of_ovf32_zero {t : TickSource} (h : t.ovf32 = 0#32) : t.tick = t.prev32.setWidth 64 := by
  apply BitVec.eq_of_toNat_eq
  rw [TickSource.tick_toNat, h, BitVec.toNat_setWidth_of_le (by decide)]
  simp

/-- A tick holds its sample in its low half. -/
theorem TickSource.prev32_of_tick_eq {t u : TickSource} (h : t.tick = u.tick) : t.prev32 = u.prev32 := by
  have hnat := congrArg BitVec.toNat h
  rw [TickSource.tick_toNat, TickSource.tick_toNat] at hnat
  have ht := t.prev32.isLt
  have hu := u.prev32.isLt
  apply BitVec.eq_of_toNat_eq
  omega

/-- The same sample again counts no wrap. -/
theorem TickSource.sample_prev32_self (t : TickSource) : t.sample t.prev32 = t := by
  rw [TickSource.sample, if_neg (BitVec.lt_irrefl _)]

/-- NOW returns the tick it stood at exactly for an equal sample (R64). -/
theorem TickSource.tick_eq_sample_iff (t : TickSource) (x : Sample) : t.tick = (t.sample x).tick ↔ t.prev32 = x := by
  constructor
  · exact TickSource.prev32_of_tick_eq
  · rintro rfl
    rw [TickSource.sample_prev32_self]

theorem toNat_add_one_of_ne_max {o : WrapCount} (h : o ≠ 0xFFFFFFFF#32) : (o + 1#32).toNat = o.toNat + 1 := by
  bv_omega

/-- A sample moves the tick forward, unless it wraps the overflow counter (R64, R66). -/
theorem TickSource.tick_le_sample {t : TickSource} {x : Sample}
    (h : ¬ (x < t.prev32 ∧ t.ovf32 = 0xFFFFFFFF#32)) : t.tick ≤ (t.sample x).tick := by
  have hprev := t.prev32.isLt
  rw [BitVec.le_def, TickSource.tick_toNat, TickSource.tick_toNat, TickSource.sample_ovf32, TickSource.sample_prev32]
  split
  · next hwrap =>
    have hmax : t.ovf32 ≠ 0xFFFFFFFF#32 := fun hm => h ⟨hwrap, hm⟩
    rw [toNat_add_one_of_ne_max hmax]
    omega
  · next hwrap =>
    rw [BitVec.lt_def] at hwrap
    omega

end Machine

open Machine in
/-- Settles O15: the second NOW samples the TickSource that the first one left. -/
theorem consecutiveNowsMonotone : Obligations.ConsecutiveNowsMonotone := by
  intro s s1 s2 p1 p2 r1 hop1 hstep1 hres1 hrun hop2
  obtain ⟨hts1, hres⟩ := now_of_step hstep1 hop1
  obtain ⟨s3, hstep2, hts3, hres3, -⟩ := step_now hop2
  have hr1 : r1 = s1.ts.tick := by
    rw [hts1]
    exact Option.some.inj (hres1.symm.trans hres)
  have hprev : s1.ts.prev32 = p1.cnt32 := by rw [hts1, TickSource.sample_prev32]
  have hts2 : s2.ts = s1.ts := hrun.keeps_ts
  rw [hts2] at hts3 hres3
  refine ⟨s3, _, hstep2, hres3, ?_, fun hhorizon => ?_⟩
  · rw [hr1, ← hprev]
    exact TickSource.tick_eq_sample_iff _ _
  · rw [hr1]
    refine TickSource.tick_le_sample fun ⟨hwrap, hmax⟩ => hhorizon ⟨hts2 ▸ hmax, ?_⟩
    rw [hts3, TickSource.sample_ovf32, if_pos hwrap, hmax]
    rfl

open Machine in
/-- Settles O16: the first result stays a lower bound of the tick the TickSource stands at. -/
theorem nowSequenceNonDecreasing : Obligations.NowSequenceNonDecreasing := by
  intro s s1 s2 s3 p1 p2 r1 r2 hop1 hstep1 hres1 hrun hlast hop2 hstep2 hres2
  obtain ⟨hts1, hres⟩ := now_of_step hstep1 hop1
  have hbound : r1 ≤ s1.ts.tick := by
    rw [hts1]
    exact BitVec.le_of_eq (Option.some.inj (hres1.symm.trans hres))
  have hkeep : ∀ u v, State.beforeHorizon u → r1 ≤ u.ts.tick → step u = .next v → r1 ≤ v.ts.tick := by
    intro u v hbefore hle hstep
    by_cases hnow : ∃ p, u.nextOp = some (.now, p)
    · obtain ⟨p, hop⟩ := hnow
      rw [(now_of_step hstep hop).1]
      exact BitVec.le_trans hle (TickSource.tick_le_sample (hbefore.2 p hop))
    · rw [step_keeps_ts hstep hbefore.1 (not_exists.mp hnow)]
      exact hle
  obtain ⟨hts3, hres3⟩ := now_of_step hstep2 hop2
  have hr2 : r2 = s3.ts.tick := by
    rw [hts3]
    exact Option.some.inj (hres2.symm.trans hres3)
  rw [hr2]
  exact hkeep s2 s3 hlast (hrun.keeps hkeep hbound) hstep2

open Machine in
/-- Settles O18: at the horizon the incremented counter is 0, so the tick is the sample alone. -/
theorem nowFallsBackAtHorizon : Obligations.NowFallsBackAtHorizon := by
  intro s hmax hwrap
  have hovf : (s.ts.sample s.ports.cnt32).ovf32 = 0#32 := by
    rw [TickSource.sample_ovf32, if_pos hwrap, hmax]
    rfl
  refine ⟨_, exec_now s, hovf, congrArg some (TickSource.tick_of_ovf32_zero hovf), ?_⟩
  rw [BitVec.lt_def, BitVec.toNat_setWidth_of_le (by decide), TickSource.tick_toNat, hmax]
  have hx := s.ports.cnt32.isLt
  rw [BitVec.toNat_ofNat]
  omega

/-! ### True time (R65) -/

namespace Machine

/-- The TickSource as NOWs that followed true time, the last at `e`, have left it, with `lost` wraps not seen (R65). -/
def TickSource.atTime (t : TickSource) (e lost : Nat) : Prop :=
  lost ≤ e / 2 ^ 32 ∧ t.prev32 = BitVec.ofNat 32 e ∧ t.ovf32 = BitVec.ofNat 32 (e / 2 ^ 32 - lost)

theorem TickSource.atTime_afterReset : TickSource.afterReset.atTime 0 0 :=
  ⟨Nat.le_refl 0, rfl, rfl⟩

/-- The counter's wraps between two times: the whole periods, and one more when it reads a smaller value. -/
theorem div_two_pow_eq_add {e e' : Nat} (h : e ≤ e') :
    e' / 2 ^ 32 = e / 2 ^ 32 + (e' - e) / 2 ^ 32 + if e' % 2 ^ 32 < e % 2 ^ 32 then 1 else 0 := by
  split <;> omega

/-- Of the wraps between two NOWs, the second detects one where it samples a smaller value; the others are lost. -/
theorem TickSource.atTime.sample {t : TickSource} {e lost e' : Nat} (h : t.atTime e lost) (hle : e ≤ e') :
    (t.sample (BitVec.ofNat 32 e')).atTime e' (lost + (e' - e) / 2 ^ 32) := by
  obtain ⟨hlost, hprev, hovf⟩ := h
  have hwraps := div_two_pow_eq_add hle
  refine ⟨by omega, rfl, ?_⟩
  simp only [TickSource.sample_ovf32, hprev, hovf, BitVec.lt_def, BitVec.toNat_ofNat]
  rw [hwraps]
  split
  · rw [← BitVec.ofNat_add]
    congr 1
    omega
  · congr 1
    omega

/-- The tick is the true time less the lost wraps. -/
theorem TickSource.atTime.tick_toNat {t : TickSource} {e lost : Nat} (h : t.atTime e lost) :
    t.tick.toNat = (e - 2 ^ 32 * lost) % 2 ^ 64 := by
  obtain ⟨hlost, hprev, hovf⟩ := h
  rw [TickSource.tick_toNat, hprev, hovf, BitVec.toNat_ofNat, BitVec.toNat_ofNat]
  omega

/-- The TickSource that one more NOW, at time `e`, leaves after NOWs at the times `es`. -/
theorem NowsAt.sample_atTime {s t : State} {es : List Nat} (h : NowsAt s es t) {e₀ lost e : Nat}
    (hs : s.ts.atTime e₀ lost) (htimes : (e₀ :: es ++ [e]).Pairwise (· ≤ ·)) :
    (t.ts.sample (BitVec.ofNat 32 e)).atTime e (lost + lostWraps e₀ (es ++ [e])) := by
  induction h generalizing e₀ lost with
  | done hrun =>
    rw [hrun.keeps_ts]
    exact hs.sample (List.rel_of_pairwise_cons htimes (by simp))
  | @now _ _ _ _ _ e₁ es hrun hop hcnt hstep _ ih =>
    have hle : e₀ ≤ e₁ := List.rel_of_pairwise_cons htimes (by simp)
    have hnext := hs.sample hle
    rw [← hrun.keeps_ts, ← hcnt, ← (now_of_step hstep hop).1] at hnext
    rw [List.cons_append, lostWraps, ← Nat.add_assoc]
    exact ih hnext htimes.of_cons

/-- Gaps below 2^32 lose no wrap. -/
theorem lostWraps_eq_zero {e₀ e : Nat} {es : List Nat}
    (h : ∀ a b, (a, b) ∈ (e₀ :: es).zip (es ++ [e]) → b - a < 2 ^ 32) : lostWraps e₀ (es ++ [e]) = 0 := by
  induction es generalizing e₀ with
  | nil =>
    have hgap : e - e₀ < 2 ^ 32 := h e₀ e (by simp)
    rw [List.nil_append, lostWraps, lostWraps, Nat.div_eq_of_lt hgap]
  | cons e₁ es ih =>
    have hgap : e₁ - e₀ < 2 ^ 32 := h e₀ e₁ (by simp)
    rw [List.cons_append, lostWraps, Nat.div_eq_of_lt hgap, Nat.zero_add]
    exact ih fun a b hab => h a b (List.mem_cons_of_mem _ hab)

end Machine

open Machine in
/-- Settles O17: the last NOW's tick is the true time less the lost wraps, of which gaps below 2^32 have none. -/
theorem nowReturnsElapsedTime : Obligations.NowReturnsElapsedTime := by
  intro s t p es e hreset htimes hnows hop hcnt
  obtain ⟨u, hstep, -, hresult, -⟩ := step_now hop
  have hstart : s.ts.atTime 0 0 := hreset ▸ TickSource.atTime_afterReset
  have htick := (hnows.sample_atTime hstart htimes).tick_toNat
  rw [← hcnt, Nat.zero_add] at htick
  refine ⟨u, _, hstep, hresult, htick, fun hgaps => ?_⟩
  rw [htick, lostWraps_eq_zero hgaps, Nat.mul_zero, Nat.sub_zero]

end Sys2Proof

/-! UPDATE, one at a time (41_button_update.md R77, R79, R82, R83): when it accepts, what a release sets, and which
registers it reads and writes. -/

namespace Sys2Proof

namespace Machine

/-- Two channels with one stored level and one debounced state are in one phase (R32). -/
theorem Channel.phase_congr {p : ChanParams} {c d : Channel} (hraw : d.rawLevel = c.rawLevel)
    (hp : d.pressed = c.pressed) : d.phase p = c.phase p := by
  rw [Channel.phase, Channel.phase, hraw, hp]

theorem Channel.not_debouncing_iff (p : ChanParams) (c : Channel) :
    c.phase p ≠ .debouncingEdge ↔ active p c.rawLevel = c.pressed := by
  rw [ne_eq, Channel.phase_debouncing_iff, not_not]

theorem active_eq_true_iff (p : ChanParams) (r : Level) : active p r = true ↔ r = p.pressedLevel := by
  rw [active, decide_eq_true_iff]

section

variable {p : ChanParams} {c : Channel} {t : Tick} {r : Level}

/-! ### Acceptance -/

/-- A sampled level other than the stored one restarts the window (R71). -/
theorem Channel.filter_deadline_of_change (hr : r ≠ c.rawLevel) :
    (c.filter p t r).debounceDeadline = t + p.debounceDelay := by
  rw [Channel.filter_debounceDeadline, if_pos hr]

/-- A sampled level equal to the stored one leaves the filter nothing to do (R71). -/
theorem Channel.filter_self (hr : r = c.rawLevel) : c.filter p t r = c := by
  subst hr
  simp [Channel.filter]

/-- The comparator after the filter, on the sampled level's logical value (R72). -/
theorem Channel.filter_accepts_iff_active (p : ChanParams) (c : Channel) (t : Tick) (r : Level) :
    (c.filter p t r).accepts p t = true ↔ (c.filter p t r).debounceDeadline ≤ t ∧ active p r ≠ c.pressed := by
  rw [Channel.accepts_iff, Channel.filter_rawLevel, Channel.filter_pressed]

theorem Channel.update_of_not_accepted
    (h : ¬ ((c.filter p t r).debounceDeadline ≤ t ∧ active p r ≠ c.pressed)) :
    c.update p t r = c.filter p t r := by
  rw [← Channel.filter_accepts_iff_active] at h
  rw [Channel.update, Channel.accept, if_neg h]

theorem Channel.update_pressed_of_accepted (hd : (c.filter p t r).debounceDeadline ≤ t)
    (hne : active p r ≠ c.pressed) : (c.update p t r).pressed = !c.pressed := by
  have ha := (Channel.filter_accepts_iff_active p c t r).mpr ⟨hd, hne⟩
  rw [Channel.update, Channel.accept, if_pos ha, Channel.filter_pressed]
  cases c.pressed <;> rfl

/-- Only an acceptance changes the debounced state (R72). -/
theorem Channel.accepted_of_pressed_changed (h : (c.update p t r).pressed ≠ c.pressed) :
    (c.filter p t r).debounceDeadline ≤ t ∧ active p r ≠ c.pressed := by
  by_contra hn
  exact h (by rw [Channel.update_of_not_accepted hn, Channel.filter_pressed])

/-! ### The flags that a release sets (R74 to R77) -/

theorem Channel.update_eq_release_of_cleared (hp : c.pressed = true) (h : (c.update p t r).pressed = false) :
    c.update p t r = (c.filter p t r).release p t := by
  obtain ⟨hd, hne⟩ := Channel.accepted_of_pressed_changed (c := c) (p := p) (t := t) (r := r) (by simp [h, hp])
  have hr : r ≠ p.pressedLevel := by simpa [hp, active_eq_true_iff] using hne
  exact Channel.update_eq_release hd hr hp

theorem Channel.update_flags_of_long_release (hp : c.pressed = true) (h : (c.update p t r).pressed = false)
    (hlong : c.pressStartTick + p.longPressThreshold ≤ t) :
    (c.update p t r).longPressPending = true ∧ (c.update p t r).shortPressPending = c.shortPressPending := by
  rw [Channel.update_eq_release_of_cleared hp h, (c.filter p t r).release_eq_long hlong]
  exact ⟨rfl, rfl⟩

theorem Channel.update_flags_of_short_release (hp : c.pressed = true) (h : (c.update p t r).pressed = false)
    (hshort : t < c.pressStartTick + p.longPressThreshold) :
    (c.update p t r).shortPressPending = true ∧ (c.update p t r).longPressPending = c.longPressPending := by
  rw [Channel.update_eq_release_of_cleared hp h, (c.filter p t r).release_eq_short hshort]
  exact ⟨rfl, rfl⟩

/-- A change and its reversal at one tick, the window between them not empty, restart the deadline and no more (R79). -/
theorem Channel.update_reversal (hr : r ≠ c.rawLevel) (hwindow : t < t + p.debounceDelay) :
    (c.update p t r).update p t c.rawLevel = { c with debounceDeadline := t + p.debounceDelay } := by
  rw [Channel.update_restarts hr (.inl (BitVec.not_le.mpr hwindow))]
  exact Channel.update_restarts (Ne.symm hr) (.inl (BitVec.not_le.mpr hwindow))

end

/-! ### Sums of ticks that reach 2^64 and sums that do not -/

theorem add_le_of_two_pow_le {a b : Tick} (h : 2 ^ 64 ≤ a.toNat + b.toNat) : a + b ≤ a := by
  bv_omega

theorem lt_add_of_lt_two_pow {a b : Tick} (hb : b ≠ 0#64) (h : a.toNat + b.toNat < 2 ^ 64) : a < a + b := by
  bv_omega

/-- Without a wrap, the held duration is below the threshold exactly below the sum (R82). -/
theorem sub_lt_iff_lt_add {t start d : Tick} (hle : start ≤ t) (h : start.toNat + d.toNat < 2 ^ 64) :
    t - start < d ↔ t < start + d := by
  bv_omega

/-- UPDATE's next state on its own channel, and the parameters (R33, R70). -/
theorem exec_update_chan (s : State) (ch : ChanId) :
    ∃ t, exec (.update ch) s = .next t ∧
      t.chan ch = (s.chan ch).update (s.params.chan ch) s.ports.ticks (s.ports.pin ch) ∧ t.params = s.params :=
  ⟨_, exec_update s ch, by simp, by simp⟩

end Machine

open Machine in
/-- Settles O21: the held duration below the threshold is the tick below the sum. -/
theorem releaseSetsOneFlagByHeldDuration : Obligations.ReleaseSetsOneFlagByHeldDuration := by
  intro s t ch hexec hp hrel hle hsum
  rw [exec_update] at hexec
  cases hexec
  rw [State.deliver_chan, State.setChan_chan_self] at hrel ⊢
  have hheld := sub_lt_iff_lt_add hle hsum
  split
  · next hshort => exact Channel.update_flags_of_short_release hp hrel (hheld.mp hshort)
  · next hlong =>
    exact Channel.update_flags_of_long_release hp hrel (BitVec.not_lt.mp fun hlt => hlong (hheld.mpr hlt))

open Machine in
/-- Settles O22: on the channel, no flag is cleared, none is set without a release, and a release is short or long. -/
theorem updateNeverClearsFlags : Obligations.UpdateNeverClearsFlags := by
  intro s ch
  obtain ⟨hshort, hlong, hpress⟩ :=
    (s.chan ch).update_flags (s.params.chan ch) s.ports.ticks (s.ports.pin ch)
  refine ⟨_, exec_update s ch, fun ch' h => ?_, fun ch' h => ?_, fun hp => ?_, fun hp hrel => ?_⟩
  · rw [State.deliver_chan, State.setChan_chan]
    split
    · next e => exact hshort (e ▸ h)
    · exact h
  · rw [State.deliver_chan, State.setChan_chan]
    split
    · next e => exact hlong (e ▸ h)
    · exact h
  · rw [State.deliver_chan, State.setChan_chan_self]
    exact hpress (by simp [hp])
  · rw [State.deliver_chan, State.setChan_chan_self] at hrel ⊢
    by_cases hheld : (s.chan ch).pressStartTick + (s.params.chan ch).longPressThreshold ≤ s.ports.ticks
    · exact .inl (Channel.update_flags_of_long_release hp hrel hheld).symm
    · exact .inr (Channel.update_flags_of_short_release hp hrel (BitVec.not_le.mp hheld)).symm

open Machine in
/-- Settles O23: the channel's next registers are a function of what the two states share. -/
theorem updateTouchesOnlyItsChannel : Obligations.UpdateTouchesOnlyItsChannel := by
  intro s s' ch hchan hpar hticks hpin
  refine ⟨_, _, exec_update s ch, exec_update s' ch, ?_, by simp, by simp, by simp, by simp, fun ch' hne => ?_⟩
  · simp [hchan, hpar, hticks, hpin]
  · simp [State.setChan_chan_ne _ hne]

open Machine in
/-- Settles O24: each order writes the two channels' registers once. -/
theorem updatesOfTwoChannelsCommute : Obligations.UpdatesOfTwoChannelsCommute :=
  fun s => ⟨_, _, _, exec_update s .c0, exec_update _ .c1, exec_update s .c1, exec_update _ .c0⟩

open Machine in
/-- Settles O25, clause by clause: acceptance with an empty window, with none, and with a wrapped one, the two releases,
a settled level below the deadline and outside a window, and a change with its reversal. -/
theorem updateCornerCases : Obligations.UpdateCornerCases := by
  intro s ch c P r
  have hchan : (((s.setChan ch (c.update P s.ports.ticks r)).deliver 0#64).chan ch) = c.update P s.ports.ticks r := by
    simp
  have hparams : ((s.setChan ch (c.update P s.ports.ticks r)).deliver 0#64).params = s.params := by simp
  refine ⟨_, exec_update s ch, ?_⟩
  rw [hchan]
  refine ⟨fun hzero hr hne => ?_, fun hpos hsum hr => ?_, fun hsum hr hne => ?_, fun hlong hle hp hrel => ?_,
    fun hshort hp hrel => Channel.update_flags_of_short_release hp hrel hshort,
    fun hr hlt => Channel.update_settled hr (.inl (BitVec.not_le.mpr hlt)), fun hr hphase => ?_,
    fun hwindow hr q hticks hpin => ?_⟩
  · refine Channel.update_pressed_of_accepted ?_ hne
    rw [Channel.filter_deadline_of_change hr, hzero, BitVec.add_zero]
    exact BitVec.le_refl _
  · rw [Channel.update_restarts hr (.inl (BitVec.not_le.mpr (lt_add_of_lt_two_pow hpos hsum)))]
    exact ⟨rfl, BitVec.toNat_add_of_lt hsum⟩
  · refine Channel.update_pressed_of_accepted ?_ hne
    rw [Channel.filter_deadline_of_change hr]
    exact add_le_of_two_pow_le hsum
  · refine Channel.update_flags_of_long_release hp hrel ?_
    obtain hzero | hsum := hlong
    · rw [hzero, BitVec.add_zero]
      exact hle
    · exact BitVec.le_trans (add_le_of_two_pow_le hsum) hle
  · rw [Channel.update_settled hr (.inr hphase), State.setChan_chan_same]
  · obtain ⟨u, hexec, hu, huparams⟩ := exec_update_chan
      (((s.setChan ch (c.update P s.ports.ticks r)).deliver 0#64).present q) ch
    rw [State.present_chan, hchan, State.present_params, hparams, State.present_ports, hticks, hpin,
      Channel.update_reversal hr hwindow] at hu
    rw [State.present_params, hparams] at huparams
    refine ⟨u, hexec, hu, ?_⟩
    rw [hu, huparams]
    exact Channel.phase_congr rfl rfl

end Sys2Proof

/-! The two classes of a press (42_button_query.md R86, R87): the flags and their queries have one argument, made over the
class. -/

namespace Sys2Proof

namespace Machine

/-- The two classes of a press (R75). -/
inductive PressClass where
  | short
  | long

/-- The query of a class (R86, R87). -/
def PressClass.query : PressClass → ChanId → Instr
  | .short => .isshort
  | .long => .islong

/-- The pending flag of a class (R28, R29). -/
def Channel.pending (c : Channel) : PressClass → Bool
  | .short => c.shortPressPending
  | .long => c.longPressPending

/-- The channel with the pending flag of a class cleared. -/
def Channel.clear (c : Channel) : PressClass → Channel
  | .short => { c with shortPressPending := false }
  | .long => { c with longPressPending := false }

/-- A release accepted at tick `t` ends a press of the class (R75, R76). -/
def Channel.endsPress (p : ChanParams) (c : Channel) (t : Tick) : PressClass → Prop
  | .short => t < c.pressStartTick + p.longPressThreshold
  | .long => c.pressStartTick + p.longPressThreshold ≤ t

section

variable (c : Channel) (k : PressClass)

@[simp] theorem Channel.clear_pending : (c.clear k).pending k = false := by cases k <;> rfl
@[simp] theorem Channel.clear_rawLevel : (c.clear k).rawLevel = c.rawLevel := by cases k <;> rfl
@[simp] theorem Channel.clear_debounceDeadline : (c.clear k).debounceDeadline = c.debounceDeadline := by cases k <;> rfl
@[simp] theorem Channel.clear_pressed : (c.clear k).pressed = c.pressed := by cases k <;> rfl
@[simp] theorem Channel.clear_pressStartTick : (c.clear k).pressStartTick = c.pressStartTick := by cases k <;> rfl

theorem Channel.clear_endsPress (p : ChanParams) (t : Tick) (k' : PressClass) :
    (c.clear k).endsPress p t k' ↔ c.endsPress p t k' := by
  cases k <;> cases k' <;> rfl

@[simp] theorem Channel.afterReset_pending (p : ChanParams) : (Channel.afterReset p).pending k = false := by
  cases k <;> rfl

end

/-- The query of a class returns the flag and clears it, in one step (R86, R87). -/
theorem exec_query (k : PressClass) (s : State) (ch : ChanId) :
    exec (k.query ch) s =
      .next ((s.setChan ch ((s.chan ch).clear k)).deliver (zextBool ((s.chan ch).pending k))) := by
  cases k with
  | short => exact exec_isshort s ch
  | long => exact exec_islong s ch

theorem step_query {k : PressClass} {s : State} {ch : ChanId} {p : Ports} (h : s.nextOp = some (k.query ch, p)) :
    ∃ t, step s = .next t ∧ t.result = some (zextBool ((s.chan ch).pending k)) ∧
      t.chan ch = (s.chan ch).clear k := by
  obtain ⟨u, ⟨-, hch, -⟩, -, hstep⟩ := step_of_nextOp h
  rw [exec_query] at hstep
  exact ⟨_, hstep, by simp [hch], by simp [hch]⟩

/-- An UPDATE clears no pending flag, and without a release it writes none (R77). -/
theorem Channel.update_pending (k : PressClass) (p : ChanParams) (c : Channel) (t : Tick) (r : Level) :
    (c.pending k = true → (c.update p t r).pending k = true) ∧
      (¬ (c.pressed = true ∧ (c.update p t r).pressed = false) → (c.update p t r).pending k = c.pending k) := by
  obtain ⟨hshort, hlong, hkeep⟩ := c.update_flags p t r
  cases k with
  | short => exact ⟨hshort, fun hno => (hkeep hno).1⟩
  | long => exact ⟨hlong, fun hno => (hkeep hno).2⟩

end Machine

end Sys2Proof

/-! Who writes each register (10_state.md R21 to R29, R33), what the registers record of the past (R21, R22, R24, R27,
R81), and RESET (70_reset_and_hazards.md R107 to R109). -/

namespace Sys2Proof

namespace Machine

/-- No step writes the parameters (R33, R108). -/
theorem step_params {s t : State} (h : step s = .next t) : t.params = s.params := by
  obtain ⟨u, ⟨-, -, hpar, -⟩, ⟨-, -, -, rfl⟩ | ⟨-, -, -, rfl⟩ | ⟨p, i, -, -, -, -, hexec⟩⟩ := step_cases h
  · exact hpar
  · exact hpar
  · exact (exec_keeps hexec).1.trans hpar

theorem RunWhile.params {P : State → Prop} {s t : State} (h : RunWhile P s t) : t.params = s.params :=
  h.keeps (Inv := fun u => u.params = s.params) (fun _ _ _ hinv hstep => (step_params hstep).trans hinv) rfl

/-- A step that is neither a RESET nor an UPDATE of the channel changes at most its pending flags (R24 to R27). -/
theorem step_keeps_chan {s t : State} {ch : ChanId} (h : step s = .next t) (hr : s.resetsNext = false)
    (hno : ∀ p, s.nextOp ≠ some (.update ch, p)) :
    (t.chan ch).rawLevel = (s.chan ch).rawLevel ∧ (t.chan ch).debounceDeadline = (s.chan ch).debounceDeadline ∧
      (t.chan ch).pressed = (s.chan ch).pressed ∧ (t.chan ch).pressStartTick = (s.chan ch).pressStartTick := by
  obtain ⟨p, hop, -⟩ | ⟨-, a, b, hkeep, -, -⟩ := step_chan_cases ch h hr
  · exact absurd hop (hno p)
  · rw [hkeep]
    exact ⟨rfl, rfl, rfl, rfl⟩

/-- What a step that performs an UPDATE leaves in its channel, known as the step's next state. -/
theorem update_of_step {s t : State} {ch : ChanId} {p : Ports} (h : step s = .next t)
    (hop : s.nextOp = some (.update ch, p)) :
    t.chan ch = (s.chan ch).update (s.params.chan ch) p.ticks (p.pin ch) := by
  obtain ⟨u, hu, hchan, -⟩ := step_update hop
  rw [h] at hu
  cases hu
  exact hchan

section

variable {k : PressClass} {s t : State} {ch : ChanId}

/-- A step that is neither a RESET nor an UPDATE of the channel leaves a pending flag of it, or is the flag's query. -/
theorem step_pending_cases (h : step s = .next t) (hr : s.resetsNext = false)
    (hno : ∀ p, s.nextOp ≠ some (.update ch, p)) :
    (t.chan ch).pending k = (s.chan ch).pending k ∨
      ((t.chan ch).pending k = false ∧ ∃ p, s.nextOp = some (k.query ch, p)) := by
  obtain ⟨p, hop, -⟩ | ⟨-, a, b, hkeep, hshort, hlong⟩ := step_chan_cases ch h hr
  · exact absurd hop (hno p)
  · rw [hkeep]
    cases k with
    | short => exact hshort
    | long => exact hlong

/-- Without a RESET only an UPDATE of the channel sets a pending flag of it (R28, R29). -/
theorem step_sets_pending (h : step s = .next t) (hr : s.resetsNext = false)
    (hno : ∀ p, s.nextOp ≠ some (.update ch, p)) (hset : (t.chan ch).pending k = true) :
    (s.chan ch).pending k = true := by
  obtain hkeep | ⟨hclear, -⟩ := step_pending_cases (k := k) h hr hno
  · exact hkeep ▸ hset
  · rw [hset] at hclear; cases hclear

/-- Without a RESET only the channel's own query clears a pending flag of it (R28, R29, R77). -/
theorem step_clears_pending (h : step s = .next t) (hr : s.resetsNext = false) (hset : (s.chan ch).pending k = true)
    (hclear : (t.chan ch).pending k = false) : ∃ p, s.nextOp = some (k.query ch, p) := by
  by_cases hop : ∃ p, s.nextOp = some (.update ch, p)
  · obtain ⟨p, hop⟩ := hop
    rw [update_of_step h hop, ((s.chan ch).update_pending k _ _ _).1 hset] at hclear
    cases hclear
  · obtain hkeep | ⟨-, hquery⟩ := step_pending_cases (k := k) h hr (not_exists.mp hop)
    · rw [hkeep, hset] at hclear; cases hclear
    · exact hquery

end

end Machine

/-- Settles O41: the turn keeps the parameters, and so do RESET and every operation. -/
theorem parametersNeverWritten : Obligations.ParametersNeverWritten :=
  fun _ _ => Machine.step_params

open Machine in
/-- Settles O40: what a step that is not the named operation keeps. -/
theorem onlyTheseEventsChangeRegisters : Obligations.OnlyTheseEventsChangeRegisters := by
  intro s t hstep hr
  refine ⟨fun hts => ?_, fun ch => ?_⟩
  · by_contra hno
    exact hts (step_keeps_ts hstep hr (not_exists.mp hno))
  · have hsets : ∀ k, (s.chan ch).pending k = false → (t.chan ch).pending k = true →
        ∃ p, s.nextOp = some (.update ch, p) := by
      intro k hclear hset
      by_contra hno
      rw [step_sets_pending hstep hr (not_exists.mp hno) hset] at hclear
      cases hclear
    refine ⟨fun hchange => ?_, hsets .short, hsets .long, step_clears_pending (k := .short) hstep hr,
      step_clears_pending (k := .long) hstep hr⟩
    by_contra hno
    obtain ⟨hraw, hdeadline, hpressed, hstart⟩ := step_keeps_chan hstep hr (not_exists.mp hno)
    simp [hraw, hdeadline, hpressed, hstart] at hchange

/-! ### The registers as a record of the past -/

namespace Machine

/-- The TickSource's clauses of `State.recordsPast` (R21, R22). -/
def TickSource.recordsPast (t : TickSource) (h : History) : Prop :=
  t.prev32 = h.lastSample.getD 0#32 ∧ t.ovf32 = BitVec.ofNat 32 h.wraps

/-- A channel's clauses of `State.recordsPast` (R24, R27, R81). -/
def Channel.recordsPast (p : ChanParams) (c : Channel) (h : ChanHistory) : Prop :=
  c.rawLevel = h.lastLevel.getD (1#1 - p.pressedLevel) ∧
  c.pressStartTick = h.lastPress.getD 0#64 ∧
  (c.phase p = .debouncingEdge → ∃ tc, h.lastChange = some tc ∧ c.debounceDeadline = tc + p.debounceDelay)

theorem State.recordsPast_iff (s : State) (h : History) :
    s.recordsPast h ↔ s.ts.recordsPast h ∧ ∀ ch, (s.chan ch).recordsPast (s.params.chan ch) (h.chan ch) :=
  and_assoc.symm

/-! One step's effect on the past -/

theorem History.setChan_chan (h : History) (ch ch' : ChanId) (c : ChanHistory) :
    (h.setChan ch c).chan ch' = if ch' = ch then c else h.chan ch' := by
  cases ch <;> cases ch' <;> rfl

@[simp] theorem History.afterNow_chan (h : History) (x : Sample) (ch : ChanId) : (h.afterNow x).chan ch = h.chan ch :=
  by cases ch <;> rfl

@[simp] theorem History.setChan_lastSample (h : History) (ch : ChanId) (c : ChanHistory) :
    (h.setChan ch c).lastSample = h.lastSample := by
  cases ch <;> rfl

@[simp] theorem History.setChan_wraps (h : History) (ch : ChanId) (c : ChanHistory) :
    (h.setChan ch c).wraps = h.wraps := by
  cases ch <;> rfl

section

variable {s t : State} (h : History)

theorem History.after_of_reset (hr : s.resetsNext = true) : h.after s t = History.empty := by
  rw [History.after, if_pos hr]

theorem History.after_of_idle (hr : s.resetsNext = false) (hop : s.nextOp = none) : h.after s t = h := by
  simp [History.after, hr, hop]

theorem History.after_of_now {p : Ports} (hr : s.resetsNext = false) (hop : s.nextOp = some (.now, p)) :
    h.after s t = h.afterNow p.cnt32 := by
  simp [History.after, hr, hop]

theorem History.after_of_update {p : Ports} {ch : ChanId} (hr : s.resetsNext = false)
    (hop : s.nextOp = some (.update ch, p)) :
    h.after s t = h.setChan ch ((h.chan ch).afterUpdate (s.params.chan ch) p.ticks (p.pin ch)
      (!(s.chan ch).pressed && (t.chan ch).pressed)) := by
  simp [History.after, hr, hop]

theorem History.after_of_query {p : Ports} {i : Instr} (hr : s.resetsNext = false) (hop : s.nextOp = some (i, p))
    (hnow : i ≠ .now) (hupdate : ∀ ch, i ≠ .update ch) : h.after s t = h := by
  cases i with
  | now => exact absurd rfl hnow
  | update ch => exact absurd rfl (hupdate ch)
  | ispressed ch | isshort ch | islong ch => simp [History.after, hr, hop]

/-- A step that is neither RESET nor NOW adds nothing to the samples' past. -/
theorem History.after_keeps_samples (hr : s.resetsNext = false) (hno : ∀ p, s.nextOp ≠ some (.now, p)) :
    (h.after s t).lastSample = h.lastSample ∧ (h.after s t).wraps = h.wraps := by
  cases hop : s.nextOp with
  | none => rw [h.after_of_idle hr hop]; exact ⟨rfl, rfl⟩
  | some o =>
    obtain ⟨i, p⟩ := o
    by_cases hupdate : ∃ ch, i = .update ch
    · obtain ⟨ch, rfl⟩ := hupdate
      rw [h.after_of_update hr hop]
      simp
    · rw [h.after_of_query hr hop (fun e => hno p (e ▸ hop)) (not_exists.mp hupdate)]
      exact ⟨rfl, rfl⟩

/-- A step that is neither RESET nor an UPDATE of the channel adds nothing to the channel's past. -/
theorem History.after_keeps_chan {ch : ChanId} (hr : s.resetsNext = false)
    (hno : ∀ p, s.nextOp ≠ some (.update ch, p)) : (h.after s t).chan ch = h.chan ch := by
  cases hop : s.nextOp with
  | none => rw [h.after_of_idle hr hop]
  | some o =>
    obtain ⟨i, p⟩ := o
    cases i with
    | now => rw [h.after_of_now hr hop, History.afterNow_chan]
    | update ch' =>
      have hne : ch ≠ ch' := fun e => hno p (e ▸ hop)
      rw [h.after_of_update hr hop, History.setChan_chan, if_neg hne]
    | ispressed ch' | isshort ch' | islong ch' => rw [h.after_of_query hr hop (by simp) (by simp)]

end

/-! One operation keeps the record -/

/-- A sample below the last one is a wrap in the register and in the past alike (R63). -/
theorem TickSource.recordsPast.sample {t : TickSource} {h : History} (hrec : t.recordsPast h) (x : Sample) :
    (t.sample x).recordsPast (h.afterNow x) := by
  obtain ⟨hprev, hovf⟩ := hrec
  refine ⟨rfl, ?_⟩
  rw [TickSource.sample_ovf32, hprev, hovf, History.afterNow]
  split
  · exact (BitVec.ofNat_add _ _).symm
  · rfl

/-- Only an accepted press writes the press's tick (R27). -/
theorem Channel.update_pressStartTick (p : ChanParams) (c : Channel) (t : Tick) (r : Level) :
    (c.update p t r).pressStartTick =
      if !c.pressed && (c.update p t r).pressed then t else c.pressStartTick := by
  obtain ⟨-, h⟩ | ⟨-, -, hp, h⟩ | ⟨-, -, hp, -, h⟩ | ⟨-, -, hp, -, h⟩ := c.update_cases p t r
  · simp [h]
  · simp [h, hp, Channel.press]
  · simp [h]
  · simp [h]

/-- An UPDATE that leaves a debounce window open accepted nothing (R72). -/
theorem Channel.update_eq_filter_of_debouncing {p : ChanParams} {c : Channel} {t : Tick} {r : Level}
    (h : (c.update p t r).phase p = .debouncingEdge) : c.update p t r = c.filter p t r := by
  apply Channel.update_of_not_accepted
  rintro ⟨hd, hne⟩
  rw [Channel.phase_debouncing_iff, Channel.update_rawLevel, Channel.update_pressed_of_accepted hd hne] at h
  cases ha : active p r <;> cases hp : c.pressed <;> simp_all

/-- In a window that an UPDATE leaves open, the deadline is the last raw change's tick plus the delay (R81). -/
theorem Channel.recordsPast.update {p : ChanParams} {c : Channel} {h : ChanHistory} (hrec : c.recordsPast p h)
    (t : Tick) (r : Level) :
    (c.update p t r).recordsPast p (h.afterUpdate p t r (!c.pressed && (c.update p t r).pressed)) := by
  obtain ⟨hraw, hstart, hwindow⟩ := hrec
  refine ⟨c.update_rawLevel p t r, ?_, fun hphase => ?_⟩
  · rw [Channel.update_pressStartTick, hstart, ChanHistory.afterUpdate]
    split <;> rfl
  · have hfilter := Channel.update_eq_filter_of_debouncing hphase
    rw [hfilter] at hphase ⊢
    rw [ChanHistory.afterUpdate, ← hraw]
    by_cases hr : r = c.rawLevel
    · rw [Channel.filter_self hr] at hphase ⊢
      simpa [hr] using hwindow hphase
    · exact ⟨t, if_pos hr, Channel.filter_deadline_of_change hr⟩

/-- The pending flags are no part of the record. -/
theorem Channel.recordsPast.flags {p : ChanParams} {c : Channel} {h : ChanHistory} (hrec : c.recordsPast p h)
    (a b : Bool) : Channel.recordsPast p { c with shortPressPending := a, longPressPending := b } h := by
  obtain ⟨hraw, hstart, hwindow⟩ := hrec
  exact ⟨hraw, hstart, fun hphase => hwindow ((Channel.phase_congr rfl rfl).trans hphase)⟩

/-- The reset registers record the empty past (R107). -/
theorem State.recordsPast_empty {s : State} (hts : s.ts = TickSource.afterReset)
    (hch : ∀ ch, s.chan ch = Channel.afterReset (s.params.chan ch)) : s.recordsPast History.empty := by
  rw [State.recordsPast_iff, hts]
  refine ⟨⟨rfl, rfl⟩, fun ch => ?_⟩
  rw [hch]
  cases ch <;> exact ⟨rfl, rfl, fun hphase => by simp at hphase⟩

end Machine

open Machine in
/-- Settles O43: before any operation nothing is to be recorded, and no window is open. -/
theorem resetRecordsEmptyPast : Obligations.ResetRecordsEmptyPast :=
  fun p => State.recordsPast_empty rfl (State.resetWith_chan p)

open Machine in
/-- Settles O42, register group by register group: RESET restarts the past; otherwise the TickSource's part changes at
NOW alone, and a channel's at its UPDATE alone. -/
theorem registersRecordPastKept : Obligations.RegistersRecordPastKept := by
  intro s t h hrec hstep
  have hparams := step_params hstep
  cases hr : s.resetsNext with
  | true =>
    obtain ⟨hts, -, hch⟩ := step_reset hstep hr
    rw [h.after_of_reset hr]
    exact State.recordsPast_empty hts fun ch => hparams ▸ hch ch
  | false =>
    rw [State.recordsPast_iff] at hrec ⊢
    obtain ⟨hts, hch⟩ := hrec
    refine ⟨?_, fun ch => ?_⟩
    · by_cases hnow : ∃ p, s.nextOp = some (.now, p)
      · obtain ⟨p, hop⟩ := hnow
        rw [(now_of_step hstep hop).1, h.after_of_now hr hop]
        exact hts.sample p.cnt32
      · obtain ⟨hsample, hwraps⟩ := h.after_keeps_samples (t := t) hr (not_exists.mp hnow)
        rw [step_keeps_ts hstep hr (not_exists.mp hnow), TickSource.recordsPast, hsample, hwraps]
        exact hts
    · rw [hparams]
      obtain ⟨p, hop, hupdate⟩ | ⟨hno, a, b, hkeep, -, -⟩ := step_chan_cases ch hstep hr
      · rw [h.after_of_update hr hop, History.setChan_chan, if_pos rfl, hupdate]
        exact (hch ch).update p.ticks (p.pin ch)
      · rw [h.after_keeps_chan hr hno, hkeep]
        exact (hch ch).flags a b

/-! ### RESET -/

namespace Machine

theorem Channel.afterReset_phase (p : ChanParams) : (Channel.afterReset p).phase p = .released := by
  simp

/-- The inactive level is the one that RESET stores (R107). -/
theorem eq_released_of_ne_pressedLevel {p : ChanParams} {r : Level} (h : r ≠ p.pressedLevel) :
    r = (Channel.afterReset p).rawLevel := by
  apply active_inj p
  rw [Channel.afterReset_rawLevel, active_released, Bool.eq_false_iff, ne_eq, active_eq_true_iff]
  exact h

/-- After RESET no sample is below the last one, so the counter stays 0. -/
theorem TickSource.afterReset_sample_ovf32 (x : Sample) : (TickSource.afterReset.sample x).ovf32 = 0#32 := by
  rw [TickSource.sample_ovf32]
  exact if_neg BitVec.not_lt_zero

end Machine

open Machine in
/-- Settles O44: the turn is RESET whatever is requested with it. -/
theorem resetStep : Obligations.ResetStep := by
  intro s main bus rest hprog
  have hstep := step_of_reset (State.nextTurn_of_reset hprog)
  refine ⟨hstep, fun t ht ch => ?_⟩
  rw [hstep] at ht
  cases ht
  rw [State.applyReset_chan, State.applyReset_params]
  exact Channel.afterReset_phase _

open Machine in
/-- Settles O45: each channel is the channel after RESET for its own parameters. -/
theorem resetStateRegisters : Obligations.ResetStateRegisters := by
  refine ⟨rfl, rfl, fun ch => ?_⟩
  have hch : State.reset.chan ch = Channel.afterReset (State.reset.params.chan ch) := State.resetWith_chan _ ch
  rw [hch]
  exact ⟨rfl, rfl, rfl, rfl, rfl, rfl, Channel.afterReset_phase _⟩

open Machine in
/-- Settles O46: no sample is below 0; the inactive level is the stored one, outside a window; the active level opens
one; and no query finds anything. -/
theorem firstOperationsAfterReset : Obligations.FirstOperationsAfterReset := by
  intro s hts hch
  have hovf := TickSource.afterReset_sample_ovf32 s.ports.cnt32
  refine ⟨⟨_, exec_now s, ?_, ?_⟩, fun ch => ⟨fun hpin => ?_, fun hpin => ?_, ?_, ?_, ?_⟩⟩
  · rw [hts]; exact hovf
  · rw [hts]; exact congrArg some (TickSource.tick_of_ovf32_zero hovf)
  · have hsettled : (s.chan ch).update (s.params.chan ch) s.ports.ticks (s.ports.pin ch) = s.chan ch := by
      rw [hch]
      exact Channel.update_settled (eq_released_of_ne_pressedLevel hpin) (.inr (by simp [Channel.afterReset_phase]))
    rw [exec_update, hsettled, State.setChan_chan_same]
  · obtain ⟨t, hexec, ht, hparams⟩ := exec_update_chan s ch
    refine ⟨t, hexec, fun hwindow => ?_⟩
    have hchange : s.ports.pin ch ≠ (s.chan ch).rawLevel := by
      intro he
      have hactive := congrArg (active (s.params.chan ch)) he
      rw [hpin, hch] at hactive
      simp at hactive
    rw [Channel.update_restarts hchange (.inl (BitVec.not_le.mpr hwindow))] at ht
    rw [hparams, ht]
    exact ⟨rfl, by simp [hpin, hch]⟩
  · rw [exec_ispressed, hch]; rfl
  · have hclear : { s.chan ch with shortPressPending := false } = s.chan ch := by rw [hch]; rfl
    rw [exec_isshort, hclear, State.setChan_chan_same, hch]; rfl
  · have hclear : { s.chan ch with longPressPending := false } = s.chan ch := by rw [hch]; rfl
    rw [exec_islong, hclear, State.setChan_chan_same, hch]; rfl

end Sys2Proof

/-! Debounce windows along runs (41_button_update.md R78, R80, R81, R84): what a run keeps while the level waits for its
deadline, when `pressed` changes, and that a settled deadline is never read. -/

namespace Sys2Proof

namespace Machine

/-! ### Waiting for the deadline -/

/-- `d` is `c` with, at most, pending flags cleared. -/
structure Channel.ClearedTo (c d : Channel) : Prop where
  rawLevel : d.rawLevel = c.rawLevel
  debounceDeadline : d.debounceDeadline = c.debounceDeadline
  pressed : d.pressed = c.pressed
  pressStartTick : d.pressStartTick = c.pressStartTick
  pending : ∀ k, d.pending k = true → c.pending k = true

theorem Channel.ClearedTo.refl (c : Channel) : c.ClearedTo c :=
  ⟨rfl, rfl, rfl, rfl, fun _ => id⟩

theorem Channel.ClearedTo.trans {c d e : Channel} (h : c.ClearedTo d) (h' : d.ClearedTo e) : c.ClearedTo e :=
  ⟨h'.rawLevel.trans h.rawLevel, h'.debounceDeadline.trans h.debounceDeadline, h'.pressed.trans h.pressed,
    h'.pressStartTick.trans h.pressStartTick, fun k => h.pending k ∘ h'.pending k⟩

/-- A step that is neither a RESET nor an UPDATE of the channel at most clears pending flags of it. -/
theorem step_clearedTo {s t : State} {ch : ChanId} (h : step s = .next t) (hr : s.resetsNext = false)
    (hno : ∀ p, s.nextOp ≠ some (.update ch, p)) : (s.chan ch).ClearedTo (t.chan ch) := by
  obtain ⟨hraw, hdeadline, hpressed, hstart⟩ := step_keeps_chan h hr hno
  exact ⟨hraw, hdeadline, hpressed, hstart, fun _ => step_sets_pending h hr hno⟩

/-- While every UPDATE of the channel samples the stored level below the deadline, its registers wait (R84). -/
theorem RunWhile.clearedTo {s t : State} {ch : ChanId} {c : Channel}
    (h : RunWhile (State.updatesOnly ch fun u => u.pin ch = c.rawLevel ∧ u.ticks < c.debounceDeadline) s t)
    (hs : c.ClearedTo (s.chan ch)) : c.ClearedTo (t.chan ch) := by
  refine h.keeps (Inv := fun u => c.ClearedTo (u.chan ch)) (fun u v hwait hu hstep => ?_) hs
  obtain ⟨hr, hupdates⟩ := hwait
  by_cases hop : ∃ p, u.nextOp = some (.update ch, p)
  · obtain ⟨p, hop⟩ := hop
    obtain ⟨hpin, hticks⟩ := hupdates p hop
    have hsettled : (u.chan ch).update (u.params.chan ch) p.ticks (p.pin ch) = u.chan ch :=
      Channel.update_settled (hpin.trans hu.rawLevel.symm)
        (.inl (BitVec.not_le.mpr (hu.debounceDeadline ▸ hticks)))
    rw [update_of_step hstep hop, hsettled]
    exact hu
  · exact hu.trans (step_clearedTo hstep hr (not_exists.mp hop))

end Machine

open Machine in
/-- Settles O26: the bounce opens a window, which waits until the level is back, and the return only restarts it. -/
theorem bounceKeepsHeldDuration : Obligations.BounceKeepsHeldDuration := by
  intro s s1 s2 ch p q hphase hop hleaves hwindow hstep hrun hop2 hback
  rw [Channel.not_debouncing_iff] at hphase
  have hopened := update_of_step hstep hop
  rw [Channel.update_restarts hleaves (.inl (BitVec.not_le.mpr hwindow))] at hopened
  have hparams : s2.params = s.params := hrun.params.trans (step_params hstep)
  have hwait := RunWhile.clearedTo (c := { s.chan ch with
    rawLevel := p.pin ch
    debounceDeadline := p.ticks + (s.params.chan ch).debounceDelay }) hrun (hopened ▸ Channel.ClearedTo.refl _)
  have hreturns : q.pin ch ≠ (s2.chan ch).rawLevel := by
    rw [hback, hwait.rawLevel]
    exact hleaves.symm
  have hagrees : active (s.params.chan ch) (q.pin ch) = (s2.chan ch).pressed := by
    rw [hback, hphase, hwait.pressed]
  obtain ⟨s3, hstep2, hclosed, -⟩ := step_update hop2
  rw [hparams, Channel.update_restarts hreturns (.inr hagrees)] at hclosed
  refine ⟨s3, hstep2, ?_⟩
  rw [step_params hstep2, hparams, hclosed]
  exact ⟨hwait.pressed, hwait.pressStartTick, Channel.phase_congr hback hwait.pressed,
    hwait.pending .short, hwait.pending .long⟩

open Machine in
/-- Settles O29: the window waits below its deadline, and is accepted from the deadline on. -/
theorem pendingChangeAcceptedAtDeadline : Obligations.PendingChangeAcceptedAtDeadline := by
  intro s s1 ch p hphase hrun hop hpin hdeadline
  rw [Channel.phase_debouncing_iff] at hphase
  have hwait := hrun.clearedTo (Channel.ClearedTo.refl _)
  obtain ⟨t, hstep, ht, -⟩ := step_update hop
  rw [hrun.params, hpin] at ht
  have hreached :
      ((s1.chan ch).filter (s.params.chan ch) p.ticks (s.chan ch).rawLevel).debounceDeadline ≤ p.ticks := by
    rw [Channel.filter_self hwait.rawLevel.symm, hwait.debounceDeadline]
    exact hdeadline
  have haccepted : (t.chan ch).pressed = !(s.chan ch).pressed := by
    rw [ht, ← hwait.pressed]
    exact Channel.update_pressed_of_accepted hreached (hwait.pressed ▸ hphase)
  refine ⟨hwait.pressed, t, hstep, ?_, haccepted⟩
  rw [haccepted]
  exact (Bool.eq_not_of_ne hphase).symm

/-! ### The window before a change of `pressed` -/

namespace Machine

/-- In the run from `s0` to `s`, the UPDATE at `sc` with ports `pc` opened the window in which channel `ch` of `s` is:
it saw the last raw change (R81), and since then `pressed` and the sampled level are the same. -/
structure State.WindowOpenedAt (ch : ChanId) (s0 s sc : State) (pc : Ports) : Prop where
  reached : RunWhile (fun u => u.resetsNext = false) s0 sc
  nextOp : sc.nextOp = some (.update ch, pc)
  change : pc.pin ch ≠ (sc.chan ch).rawLevel
  since : ∃ sd, step sc = .next sd ∧ (sc.chan ch).pressed = (s.chan ch).pressed ∧
    RunWhile (fun u => State.updatesOnly ch (fun q => q.pin ch = pc.pin ch) u ∧
      (u.chan ch).pressed = (s.chan ch).pressed) sd s
  rawLevel : (s.chan ch).rawLevel = pc.pin ch
  deadline : (s.chan ch).debounceDeadline = pc.ticks + (s.params.chan ch).debounceDelay

/-- A step that keeps the channel's level, deadline and `pressed`, and samples no other level, keeps the window. -/
theorem State.WindowOpenedAt.step {ch : ChanId} {s0 u v sc : State} {pc : Ports}
    (h : State.WindowOpenedAt ch s0 u sc pc) (hstep : step u = .next v)
    (honly : State.updatesOnly ch (fun q => q.pin ch = (u.chan ch).rawLevel) u)
    (hraw : (v.chan ch).rawLevel = (u.chan ch).rawLevel)
    (hdeadline : (v.chan ch).debounceDeadline = (u.chan ch).debounceDeadline)
    (hpressed : (v.chan ch).pressed = (u.chan ch).pressed) : State.WindowOpenedAt ch s0 v sc pc := by
  obtain ⟨sd, hopen, hsame, hrun⟩ := h.since
  rw [h.rawLevel] at honly
  rw [← hpressed] at hsame hrun
  refine ⟨h.reached, h.nextOp, h.change, ⟨sd, hopen, hsame, hrun.snoc ⟨honly, hpressed.symm⟩ hstep⟩,
    hraw.trans h.rawLevel, ?_⟩
  rw [hdeadline, step_params hstep]
  exact h.deadline

/-- Where a debounce window is open, a step of the run opened it (R81). -/
def State.windowExplained (ch : ChanId) (s0 s : State) : Prop :=
  (s.chan ch).phase (s.params.chan ch) = .debouncingEdge → ∃ sc pc, State.WindowOpenedAt ch s0 s sc pc

theorem State.windowExplained_step {ch : ChanId} {s0 u v : State}
    (hreached : RunWhile (fun u => u.resetsNext = false) s0 u) (hu : State.windowExplained ch s0 u)
    (hr : u.resetsNext = false) (hstep : Machine.step u = .next v) : State.windowExplained ch s0 v := by
  intro hphase
  have hparams := step_params hstep
  rw [hparams] at hphase
  by_cases hop : ∃ p, u.nextOp = some (.update ch, p)
  · obtain ⟨p, hop⟩ := hop
    have hv := update_of_step hstep hop
    rw [hv] at hphase
    rw [Channel.update_eq_filter_of_debouncing hphase] at hv hphase
    by_cases hpin : p.pin ch = (u.chan ch).rawLevel
    · rw [Channel.filter_self hpin] at hv hphase
      have honly : ∀ q, u.nextOp = some (.update ch, q) → q.pin ch = (u.chan ch).rawLevel := by
        intro q hq
        rw [hop] at hq
        cases hq
        exact hpin
      obtain ⟨sc, pc, hwindow⟩ := hu hphase
      exact ⟨sc, pc, hwindow.step hstep ⟨hr, honly⟩ (by rw [hv]) (by rw [hv]) (by rw [hv])⟩
    · refine ⟨u, p, hreached, hop, hpin, ⟨v, hstep, ?_, .done v⟩, ?_, ?_⟩
      · rw [hv, Channel.filter_pressed]
      · rw [hv, Channel.filter_rawLevel]
      · rw [hv, Channel.filter_deadline_of_change hpin, hparams]
  · obtain ⟨hraw, hdeadline, hpressed, -⟩ := step_keeps_chan hstep hr (not_exists.mp hop)
    rw [Channel.phase_congr hraw hpressed] at hphase
    obtain ⟨sc, pc, hwindow⟩ := hu hphase
    exact ⟨sc, pc, hwindow.step hstep ⟨hr, fun p e => absurd ⟨p, e⟩ hop⟩ hraw hdeadline hpressed⟩

/-- Every window that a run from outside one meets is explained by it. -/
theorem RunWhile.windowExplained {ch : ChanId} {s0 s : State} (h : RunWhile (fun u => u.resetsNext = false) s0 s)
    (hphase : (s0.chan ch).phase (s0.params.chan ch) ≠ .debouncingEdge) : State.windowExplained ch s0 s := by
  have hinv := h.keeps
    (Inv := fun u => RunWhile (fun u => u.resetsNext = false) s0 u ∧ State.windowExplained ch s0 u)
    (fun u v hr hu hstep => ⟨hu.1.snoc hr hstep, State.windowExplained_step hu.1 hu.2 hr hstep⟩)
    ⟨.done s0, fun e => absurd e hphase⟩
  exact hinv.2

end Machine

open Machine in
/-- Settles O28: the accepting UPDATE itself saw the raw change, or accepts the level of an open window, which the run
explains. -/
theorem pressedChangesOnlyAfterStableWindow : Obligations.PressedChangesOnlyAfterStableWindow := by
  intro s0 s t ch hphase hrun hr hstep hchange
  obtain ⟨p, hop, hupdate⟩ | ⟨hno, -⟩ := step_chan_cases ch hstep hr
  · rw [hupdate] at hchange
    obtain ⟨hdeadline, hne⟩ := Channel.accepted_of_pressed_changed hchange
    by_cases hpin : p.pin ch = (s.chan ch).rawLevel
    · rw [Channel.filter_self hpin] at hdeadline
      rw [hpin, ← Channel.phase_debouncing_iff] at hne
      obtain ⟨sc, pc, hwindow⟩ := hrun.windowExplained hphase hne
      rw [hwindow.deadline] at hdeadline
      exact ⟨p, pc, sc, hop, hwindow.reached, hwindow.nextOp, hwindow.change, hpin.trans hwindow.rawLevel, hdeadline,
        .inr hwindow.since⟩
    · rw [Channel.filter_deadline_of_change hpin] at hdeadline
      exact ⟨p, p, s, hop, hrun, hop, hpin, rfl, hdeadline, .inl rfl⟩
  · obtain ⟨-, -, hkeep, -⟩ := step_keeps_chan hstep hr hno
    exact absurd hkeep hchange

/-! ### Settled deadlines (R80) -/

namespace Machine

/-- The state with other channel registers. -/
def State.withChannels (s : State) (a b : Channel) : State := { s with c0 := a, c1 := b }

/-- The turn, in a state with other channel registers. -/
def Turn.withChannels (a b : Channel) : Turn → Turn
  | .idle s => .idle (s.withChannels a b)
  | .reset s => .reset (s.withChannels a b)
  | .operation p s => .operation p (s.withChannels a b)

theorem State.arbitrate_withChannels (s : State) (m n : Ports) (rest : List Instant) (a b : Channel) :
    (s.withChannels a b).arbitrate m n rest = (s.arbitrate m n rest).withChannels a b := by
  rw [State.arbitrate, State.arbitrate, apply_ite (Turn.withChannels a b)]
  rfl

/-- Whose turn it is does not depend on the channels' registers. -/
theorem State.nextTurn_withChannels (s : State) (a b : Channel) :
    (s.withChannels a b).nextTurn = s.nextTurn.withChannels a b := by
  obtain ⟨ts, c0, c1, params, ports, result, program, draws⟩ := s
  match program with
  | [] => rfl
  | ⟨true, _, _⟩ :: _ => rfl
  | ⟨false, none, none⟩ :: _ => rfl
  | ⟨false, some _, none⟩ :: _ => rfl
  | ⟨false, none, some _⟩ :: _ => rfl
  | ⟨false, some m, some n⟩ :: rest =>
    exact (State.nextTurn_of_both rfl).trans
      ((State.arbitrate_withChannels _ m n rest a b).trans (congrArg _ (State.nextTurn_of_both rfl).symm))

section

variable {p : ChanParams} {c d : Channel}

theorem Channel.sameButSettledDeadline_refl (p : ChanParams) (c : Channel) : c.sameButSettledDeadline p c :=
  ⟨rfl, fun _ => rfl⟩

theorem Channel.sameButSettledDeadline.registers (h : c.sameButSettledDeadline p d) :
    c.rawLevel = d.rawLevel ∧ c.pressed = d.pressed ∧ ∀ k, c.pending k = d.pending k := by
  rw [← h.1]
  exact ⟨rfl, rfl, fun k => by cases k <;> rfl⟩

/-- UPDATE of channels that differ in a settled deadline leaves channels that differ at most so: a raw change overwrites
the deadline, and without one a settled deadline is not read. -/
theorem Channel.sameButSettledDeadline.update (h : c.sameButSettledDeadline p d) (t : Tick) (r : Level) :
    (c.update p t r).sameButSettledDeadline p (d.update p t r) := by
  obtain ⟨hraw, hpressed, -⟩ := h.registers
  obtain ⟨hd, hwindow⟩ := h
  by_cases hr : r = c.rawLevel
  · by_cases hphase : c.phase p = .debouncingEdge
    · have hcd : c = d := by rw [← hd, ← hwindow hphase]
      exact hcd ▸ Channel.sameButSettledDeadline_refl p _
    · rw [Channel.update_settled hr (.inr hphase),
        Channel.update_settled (hr.trans hraw) (.inr (Channel.phase_congr hraw hpressed ▸ hphase))]
      exact ⟨hd, hwindow⟩
  · have hfilter : c.filter p t r = d.filter p t r := by
      rw [← hd]
      simp [Channel.filter, hr]
    rw [Channel.update, Channel.update, hfilter]
    exact Channel.sameButSettledDeadline_refl p _

theorem Channel.sameButSettledDeadline.clear (h : c.sameButSettledDeadline p d) (k : PressClass) :
    (c.clear k).sameButSettledDeadline p (d.clear k) := by
  obtain ⟨hd, hwindow⟩ := h
  refine ⟨?_, fun hphase => ?_⟩
  · cases k with
    | short => exact congrArg (Channel.clear · .short) hd
    | long => exact congrArg (Channel.clear · .long) hd
  · rw [Channel.clear_debounceDeadline, Channel.clear_debounceDeadline]
    exact hwindow ((Channel.phase_congr (c.clear_rawLevel k) (c.clear_pressed k)).symm.trans hphase)

end

section

variable {s s' : State}

theorem State.sameButSettledDeadlines.eq_withChannels (h : s.sameButSettledDeadlines s') :
    s' = s.withChannels s'.c0 s'.c1 := by
  obtain ⟨hts, hparams, hports, hresult, hprogram, hdraws, -⟩ := h
  exact State.ext_chan hts.symm (fun ch => by cases ch <;> rfl) hparams.symm hports.symm hresult.symm hprogram.symm
    hdraws.symm

/-- The relation is about registers and parameters, so it holds of a state with the same ones, whatever else differs. -/
theorem State.sameButSettledDeadlines.of_sameMachine {u : State} (h : s.sameButSettledDeadlines s')
    (hu : s.sameMachine u) : u.sameButSettledDeadlines (u.withChannels s'.c0 s'.c1) := by
  obtain ⟨-, -, -, -, -, -, hch⟩ := h
  obtain ⟨-, huch, hpar, -⟩ := hu
  refine ⟨rfl, rfl, rfl, rfl, rfl, rfl, fun ch => ?_⟩
  have hchan : (u.withChannels s'.c0 s'.c1).chan ch = s'.chan ch := by cases ch <;> rfl
  rw [huch, hpar, hchan]
  exact hch ch

theorem State.sameButSettledDeadlines.deliver (h : s.sameButSettledDeadlines s') (r : Tick) :
    (s.deliver r).sameButSettledDeadlines (s'.deliver r) := by
  obtain ⟨hts, hparams, hports, -, hprogram, hdraws, hch⟩ := h
  exact ⟨hts, hparams, hports, rfl, hprogram, hdraws, by simpa using hch⟩

theorem State.sameButSettledDeadlines.deliverNone (h : s.sameButSettledDeadlines s') :
    s.deliverNone.sameButSettledDeadlines s'.deliverNone := by
  obtain ⟨hts, hparams, hports, -, hprogram, hdraws, hch⟩ := h
  exact ⟨hts, hparams, hports, rfl, hprogram, hdraws, by simpa using hch⟩

theorem State.sameButSettledDeadlines.present (h : s.sameButSettledDeadlines s') (p : Ports) :
    (s.present p).sameButSettledDeadlines (s'.present p) := by
  obtain ⟨hts, hparams, -, hresult, hprogram, hdraws, hch⟩ := h
  exact ⟨hts, hparams, rfl, hresult, hprogram, hdraws, by simpa using hch⟩

theorem State.sameButSettledDeadlines.setTickSource (h : s.sameButSettledDeadlines s') (x : TickSource) :
    (s.setTickSource x).sameButSettledDeadlines (s'.setTickSource x) := by
  obtain ⟨-, hparams, hports, hresult, hprogram, hdraws, hch⟩ := h
  exact ⟨rfl, hparams, hports, hresult, hprogram, hdraws, by simpa using hch⟩

theorem State.sameButSettledDeadlines.applyReset (h : s.sameButSettledDeadlines s') :
    s.applyReset.sameButSettledDeadlines s'.applyReset := by
  obtain ⟨-, hparams, hports, -, hprogram, hdraws, -⟩ := h
  refine ⟨rfl, hparams, hports, rfl, hprogram, hdraws, fun ch => ?_⟩
  rw [State.applyReset_chan, State.applyReset_chan, ← hparams]
  exact Channel.sameButSettledDeadline_refl _ _

theorem State.sameButSettledDeadlines.setChan (h : s.sameButSettledDeadlines s') {ch : ChanId} {c d : Channel}
    (hcd : c.sameButSettledDeadline (s.params.chan ch) d) :
    (s.setChan ch c).sameButSettledDeadlines (s'.setChan ch d) := by
  obtain ⟨hts, hparams, hports, hresult, hprogram, hdraws, hch⟩ := h
  refine ⟨by simpa, by simpa, by simpa, by simpa, by simpa, by simpa, fun ch' => ?_⟩
  rw [State.setChan_params, State.setChan_chan, State.setChan_chan]
  split
  · next e => exact e ▸ hcd
  · exact hch ch'

theorem State.sameButSettledDeadlines.exec_query (h : s.sameButSettledDeadlines s') (k : PressClass) (ch : ChanId) :
    ∃ t t', exec (k.query ch) s = .next t ∧ exec (k.query ch) s' = .next t' ∧ t.sameButSettledDeadlines t' := by
  have hfields := h
  obtain ⟨-, -, -, -, -, -, hch⟩ := hfields
  obtain ⟨-, -, hpending⟩ := (hch ch).registers
  refine ⟨_, _, Machine.exec_query k s ch, Machine.exec_query k s' ch, ?_⟩
  rw [← hpending k]
  exact (h.setChan ((hch ch).clear k)).deliver _

/-- Each operation answers states that differ at most in settled deadlines, with one result: no operation delivers a
deadline. -/
theorem State.sameButSettledDeadlines.exec (h : s.sameButSettledDeadlines s') (i : Instr) :
    ∃ t t', exec i s = .next t ∧ exec i s' = .next t' ∧ t.sameButSettledDeadlines t' := by
  have hfields := h
  obtain ⟨hts, hparams, hports, -, -, -, hch⟩ := hfields
  cases i with
  | now =>
    refine ⟨_, _, exec_now s, exec_now s', ?_⟩
    rw [← hts, ← hports]
    exact (h.setTickSource _).deliver _
  | update ch =>
    refine ⟨_, _, exec_update s ch, exec_update s' ch, ?_⟩
    rw [← hparams, ← hports]
    exact (h.setChan ((hch ch).update _ _)).deliver _
  | ispressed ch =>
    refine ⟨_, _, exec_ispressed s ch, exec_ispressed s' ch, ?_⟩
    obtain ⟨-, hpressed, -⟩ := (hch ch).registers
    rw [← hpressed]
    exact h.deliver _
  | isshort ch => exact h.exec_query .short ch
  | islong ch => exact h.exec_query .long ch

/-- The simulation, one step: both states go on, or both refuse the same word. -/
theorem State.sameButSettledDeadlines.step (h : s.sameButSettledDeadlines s') :
    (∃ t t', step s = .next t ∧ step s' = .next t' ∧ t.sameButSettledDeadlines t') ∨
      ∃ r, step s = .refused r ∧ step s' = .refused r := by
  have hturn : s'.nextTurn = s.nextTurn.withChannels s'.c0 s'.c1 :=
    (congrArg State.nextTurn h.eq_withChannels).trans (s.nextTurn_withChannels _ _)
  obtain ⟨u, hu, hidle | hreset | ⟨p, hop⟩⟩ := s.nextTurn_cases
  · rw [hidle] at hturn
    exact .inl ⟨_, _, step_of_idle hidle, step_of_idle hturn, (h.of_sameMachine hu).deliverNone⟩
  · rw [hreset] at hturn
    exact .inl ⟨_, _, step_of_reset hreset, step_of_reset hturn, (h.of_sameMachine hu).applyReset⟩
  · rw [hop] at hturn
    cases hd : decode p.cmd with
    | ok i =>
      obtain ⟨t, t', ht, ht', hsame⟩ := ((h.of_sameMachine hu).present p).exec i
      exact .inl ⟨t, t', (step_of_operation hop hd).trans ht, (step_of_operation hturn hd).trans ht', hsame⟩
    | error e => exact .inr ⟨_, step_of_reserved hop hd, step_of_reserved hturn hd⟩

end

end Machine

open Machine in
/-- Settles O27: the one-step simulation, by induction on the number of steps. -/
theorem settledDeadlineUnobservable : Obligations.SettledDeadlineUnobservable := by
  intro k
  induction k with
  | zero =>
    intro s s' h
    refine ⟨fun t ht => ?_, (by rintro r ⟨⟩)⟩
    cases ht
    exact ⟨s', rfl, h⟩
  | succ k ih =>
    intro s s' h
    obtain ⟨t, t', ht, ht', hsame⟩ | ⟨r, hr, hr'⟩ := h.step
    · rw [runSteps_of_next k ht, runSteps_of_next k ht']
      exact ih t t' hsame
    · rw [runSteps_of_refused k hr, runSteps_of_refused k hr']
      exact ⟨(by rintro t ⟨⟩), fun _ => id⟩

end Sys2Proof

/-! The queries along runs (42_button_query.md R88 to R92), for either class of press. -/

namespace Sys2Proof

namespace Machine

/-! ### A pending flag is read once (R88) -/

section

variable {k : PressClass} {s t : State} {ch : ChanId}

/-- Only an accepted release sets a pending flag (R77). -/
theorem step_keeps_clear (h : step s = .next t) (hno : ¬ s.releasesNext ch) (hclear : (s.chan ch).pending k = false) :
    (t.chan ch).pending k = false := by
  cases hr : s.resetsNext with
  | true =>
    obtain ⟨-, -, hch⟩ := step_reset h hr
    rw [hch, Channel.afterReset_pending]
  | false =>
    obtain ⟨p, hop, hupdate⟩ | ⟨hne, -⟩ := step_chan_cases ch h hr
    · obtain ⟨-, hkeep⟩ := (s.chan ch).update_pending k (s.params.chan ch) p.ticks (p.pin ch)
      rw [← hupdate] at hkeep
      rw [hkeep fun ⟨hp, hrel⟩ => hno ⟨p, t, hop, h, hp, hrel⟩, hclear]
    · rw [Bool.eq_false_iff]
      intro hset
      rw [step_sets_pending h hr hne hset] at hclear
      cases hclear

/-- A pending flag survives until its query (R88). -/
theorem RunWhile.keeps_pending (h : RunWhile (State.noResetNo (k.query ch)) s t)
    (hset : (s.chan ch).pending k = true) : (t.chan ch).pending k = true := by
  refine h.keeps (Inv := fun u => (u.chan ch).pending k = true) (fun u v hno hu hstep => ?_) hset
  rw [← Bool.not_eq_false]
  intro hclear
  obtain ⟨p, hop⟩ := step_clears_pending hstep hno.1 hu hclear
  exact hno.2 p hop

/-- A clear flag stays clear until a release (R88). -/
theorem RunWhile.keeps_clear (h : RunWhile (fun u => ¬ u.releasesNext ch) s t)
    (hclear : (s.chan ch).pending k = false) : (t.chan ch).pending k = false :=
  h.keeps (Inv := fun u => (u.chan ch).pending k = false)
    (fun _ _ hno hu hstep => step_keeps_clear hstep hno hu) hclear

end

/-- R88, for either class: the flag waits for its query, which clears it, and no release sets it again. -/
theorem pending_read_once (k : PressClass) {s s1 s2 s3 : State} {ch : ChanId} {p q : Ports}
    (hset : (s.chan ch).pending k = true) (hwait : RunWhile (State.noResetNo (k.query ch)) s s1)
    (hop : s1.nextOp = some (k.query ch, p)) (hstep : step s1 = .next s2)
    (hquiet : RunWhile (fun u => ¬ u.releasesNext ch) s2 s3) (hop' : s3.nextOp = some (k.query ch, q)) :
    s2.result = some 1#64 ∧ ∃ s4, step s3 = .next s4 ∧ s4.result = some 0#64 := by
  obtain ⟨t, ht, hresult, hchan⟩ := step_query hop
  rw [hstep] at ht
  cases ht
  have hclear : (s3.chan ch).pending k = false := hquiet.keeps_clear (by rw [hchan, Channel.clear_pending])
  obtain ⟨s4, hstep', hresult', -⟩ := step_query hop'
  rw [hwait.keeps_pending hset] at hresult
  rw [hclear] at hresult'
  exact ⟨hresult, s4, hstep', hresult'⟩

end Machine

open Machine in
/-- Settles O33: the short class. -/
theorem shortPressReadOnce : Obligations.ShortPressReadOnce :=
  fun _ _ _ _ _ _ _ => pending_read_once .short

open Machine in
/-- Settles O34: the long class. -/
theorem longPressReadOnce : Obligations.LongPressReadOnce :=
  fun _ _ _ _ _ _ _ => pending_read_once .long

/-! ### A release and a query at one instant (R90) -/

namespace Machine

/-- A settled inactive level that has reached its deadline releases the button and sets the press's flag. -/
theorem Channel.update_release {p : ChanParams} {c : Channel} {t : Tick} {r : Level} {k : PressClass}
    (hp : c.pressed = true) (hr : r ≠ p.pressedLevel) (hraw : r = c.rawLevel) (hd : c.debounceDeadline ≤ t)
    (hclass : c.endsPress p t k) : (c.update p t r).pressed = false ∧ (c.update p t r).pending k = true := by
  have hne : active p r ≠ c.pressed := by
    rw [hp, ne_eq, active_eq_true_iff]
    exact hr
  have hreached : (c.filter p t r).debounceDeadline ≤ t := by rwa [Channel.filter_self hraw]
  have hrel : (c.update p t r).pressed = false := by rw [Channel.update_pressed_of_accepted hreached hne, hp]; rfl
  refine ⟨hrel, ?_⟩
  cases k with
  | short => exact (Channel.update_flags_of_short_release hp hrel hclass).1
  | long => exact (Channel.update_flags_of_long_release hp hrel hclass).1

theorem of_exec_update {s t : State} {ch : ChanId} (h : exec (.update ch) s = .next t) :
    t.chan ch = (s.chan ch).update (s.params.chan ch) s.ports.ticks (s.ports.pin ch) ∧ t.result = some 0#64 := by
  rw [exec_update] at h
  cases h
  exact ⟨by simp, by simp⟩

theorem of_exec_query {k : PressClass} {s t : State} {ch : ChanId} (h : exec (k.query ch) s = .next t) :
    t.chan ch = (s.chan ch).clear k ∧ t.result = some (zextBool ((s.chan ch).pending k)) ∧ t.params = s.params := by
  rw [exec_query] at h
  cases h
  exact ⟨by simp, by simp, by simp⟩

/-- R90 and R47, for either class: the UPDATE first, whose flag the query returns, or the query first, which leaves the
UPDATE to set the flag. -/
theorem coinciding_release_and_query (k : PressClass) {s : State} {m b : Ports} {rest : List Instant} {ch : ChanId}
    (hprog : s.program = ⟨false, some m, some b⟩ :: rest) (hm : decode m.cmd = .ok (.update ch))
    (hb : decode b.cmd = .ok (k.query ch)) (hp : (s.chan ch).pressed = true)
    (hr : m.pin ch ≠ (s.params.chan ch).pressedLevel) (hraw : m.pin ch = (s.chan ch).rawLevel)
    (hd : (s.chan ch).debounceDeadline ≤ m.ticks) (hclass : (s.chan ch).endsPress (s.params.chan ch) m.ticks k) :
    ∃ t u, step s = .next t ∧ step t = .next u ∧ (u.chan ch).pressed = false ∧
      ((t.result = some 0#64 ∧ u.result = some 1#64 ∧ (u.chan ch).pending k = false) ∨
       (t.result = some (zextBool ((s.chan ch).pending k)) ∧ u.result = some 0#64 ∧
          (u.chan ch).pending k = true)) := by
  obtain ⟨t, u, ht, hu, hfirst, hsecond⟩ | ⟨t, u, ht, hu, hfirst, hsecond⟩ :=
    coincidingRequestsBothPerformed s m b rest _ _ hprog hm hb
  · obtain ⟨hchan, hresult⟩ := of_exec_update hfirst
    obtain ⟨hchan', hresult', -⟩ := of_exec_query hsecond
    simp only [State.present_chan, State.withProgram_chan, State.drawn_chan, State.present_params,
      State.withProgram_params, State.drawn_params, State.present_ports] at hchan hchan' hresult'
    obtain ⟨hrel, hset⟩ := Channel.update_release hp hr hraw hd hclass
    rw [← hchan] at hrel hset
    refine ⟨t, u, ht, hu, ?_, .inl ⟨hresult, ?_, ?_⟩⟩
    · rw [hchan', Channel.clear_pressed, hrel]
    · rw [hresult', hset]; rfl
    · rw [hchan', Channel.clear_pending]
  · obtain ⟨hchan, hresult, hparams⟩ := of_exec_query hfirst
    obtain ⟨hchan', hresult'⟩ := of_exec_update hsecond
    simp only [State.present_chan, State.withProgram_chan, State.drawn_chan, State.present_params,
      State.withProgram_params, State.drawn_params, State.present_ports] at hchan hresult hparams hchan'
    obtain ⟨hrel, hset⟩ := Channel.update_release (c := (s.chan ch).clear k) (by simpa using hp) hr
      (by simpa using hraw) (by simpa using hd) ((Channel.clear_endsPress _ _ _ _ _).mpr hclass)
    rw [hchan, hparams] at hchan'
    rw [← hchan'] at hrel hset
    exact ⟨t, u, ht, hu, hrel, .inr ⟨hresult, hresult', hset⟩⟩

end Machine

open Machine in
/-- Settles O35: the short class. -/
theorem coincidingReleaseAndQuery : Obligations.CoincidingReleaseAndQuery :=
  fun _ _ _ _ _ => coinciding_release_and_query .short

open Machine in
/-- Settles O49: the long class. -/
theorem coincidingLongReleaseAndQuery : Obligations.CoincidingLongReleaseAndQuery :=
  fun _ _ _ _ _ => coinciding_release_and_query .long

/-! ### Queries between updates (R91, R92) -/

open Machine in
/-- Settles O36: no other step changes `pressed`. -/
theorem ispressedIdempotent : Obligations.IspressedIdempotent := by
  intro s s1 ch p hrun hop
  have hpressed : (s1.chan ch).pressed = (s.chan ch).pressed :=
    hrun.keeps (Inv := fun u => (u.chan ch).pressed = (s.chan ch).pressed)
      (fun _ _ hno hu hstep => (step_clearedTo hstep hno.1 hno.2).pressed.trans hu) rfl
  obtain ⟨t, hstep, -, hresult, hchan⟩ := step_ispressed hop
  rw [hpressed] at hresult
  exact ⟨t, hstep, hresult, by rw [hchan, hpressed]⟩

namespace Machine

/-- A single request at the head of the program is the next operation, and leaves the rest of the program. -/
theorem step_of_instant {s : State} {c : Context} {p : Ports} {i : Instr} {rest : List Instant}
    (hprog : s.program = c.instant p :: rest) (hd : decode p.cmd = .ok i) :
    s.nextOp = some (i, p) ∧ ∃ t, step s = .next t ∧ t.program = rest := by
  have hturn := State.nextTurn_of_instant hprog
  obtain ⟨t, ht⟩ := exec_completes i ((s.withProgram rest).present p)
  obtain ⟨-, -, hprogram, -⟩ := exec_keeps ht
  exact ⟨nextOp_of_operation hturn hd, t, (step_of_operation hturn hd).trans ht, hprogram⟩

/-- A pressed channel whose released level has reached its deadline, at tick 0, one tick below the threshold. -/
def Channel.aboutToRelease (p : ChanParams) : Channel :=
  { rawLevel := 1#1 - p.pressedLevel
    debounceDeadline := 0#64
    pressed := true
    pressStartTick := 1#64 - p.longPressThreshold
    shortPressPending := false
    longPressPending := false }

/-- The ports of an operation requested at tick 0 with both buttons released. -/
def Params.releasedPorts (par : Params) (i : Instr) : Ports :=
  { cmd := encode i, ticks := 0#64, cnt32 := 0#32,
    pin0 := 1#1 - par.c0.pressedLevel, pin1 := 1#1 - par.c1.pressedLevel }

theorem Params.releasedPorts_pin (par : Params) (i : Instr) (ch : ChanId) :
    (Params.releasedPorts par i).pin ch = 1#1 - (par.chan ch).pressedLevel := by
  cases ch <;> rfl

/-- A channel about to release, and the requests ISPRESSED, UPDATE and ISSHORT of it in this order. -/
def State.interleavedStatus (par : Params) (ch : ChanId) : State :=
  ((State.resetWith par).setChan ch (Channel.aboutToRelease (par.chan ch))).withProgram
    [ Context.bus.instant (Params.releasedPorts par (.ispressed ch)),
      Context.main.instant (Params.releasedPorts par (.update ch)),
      Context.bus.instant (Params.releasedPorts par (.isshort ch)) ]

theorem State.interleavedStatus_chan (par : Params) (ch : ChanId) :
    (State.interleavedStatus par ch).chan ch = Channel.aboutToRelease (par.chan ch) := by
  simp [State.interleavedStatus]

theorem State.interleavedStatus_params (par : Params) (ch : ChanId) :
    (State.interleavedStatus par ch).params = par := by
  simp [State.interleavedStatus]

theorem Channel.aboutToRelease_update (p : ChanParams) :
    ((Channel.aboutToRelease p).update p 0#64 (1#1 - p.pressedLevel)).pressed = false ∧
      ((Channel.aboutToRelease p).update p 0#64 (1#1 - p.pressedLevel)).shortPressPending = true := by
  have hr : 1#1 - p.pressedLevel ≠ p.pressedLevel := by
    rw [ne_eq, ← active_eq_true_iff, active_released]
    decide
  have hclass : (Channel.aboutToRelease p).endsPress p 0#64 .short := by
    have hsum : 1#64 - p.longPressThreshold + p.longPressThreshold = 1#64 := BitVec.sub_add_cancel _ _
    simp [Channel.endsPress, Channel.aboutToRelease, hsum]
  exact Channel.update_release rfl hr rfl (BitVec.le_refl _) hclass

end Machine

open Machine in
/-- Settles O37, with a press about to be released when the three requests begin. -/
theorem statusIsNoSnapshot : Obligations.StatusIsNoSnapshot := by
  intro par ch
  obtain ⟨hop, t, ht, htprog⟩ := step_of_instant (s := State.interleavedStatus par ch) rfl (decode_encode _)
  obtain ⟨hop', u, hu, huprog⟩ := step_of_instant htprog (decode_encode (.update ch))
  obtain ⟨hop'', v, hv, -⟩ := step_of_instant huprog (decode_encode (.isshort ch))
  have hchan := State.interleavedStatus_chan par ch
  have hparams := State.interleavedStatus_params par ch
  obtain ⟨t', ht', -, htresult, htchan⟩ := step_ispressed hop
  rw [ht] at ht'
  cases ht'
  have huchan := update_of_step hu hop'
  rw [htchan, hchan, step_params ht, hparams, Params.releasedPorts_pin] at huchan
  obtain ⟨hreleased, hflag⟩ := Channel.aboutToRelease_update (par.chan ch)
  obtain ⟨v', hv', -, -, hvresult, -⟩ := step_isshort hop''
  rw [hv] at hv'
  cases hv'
  refine ⟨_, t, u, v, _, _, _, hparams, by rw [hchan]; rfl, hop, ht, by rw [htresult, hchan]; rfl, hop', hu,
    by rw [huchan]; exact hreleased, hop'', hv, ?_⟩
  rw [hvresult, huchan]
  exact congrArg (fun f => some (zextBool f)) hflag

end Sys2Proof

/-! The registers by their numbers (10_state.md R30): which numbers name one, and which numbers each operation may
change. -/

namespace Sys2Proof

namespace Machine

theorem Channel.peek_eq_none_iff (c : Channel) (k : Nat) : c.peek k = none ↔ 6 ≤ k := by
  match k with
  | 0 | 1 | 2 | 3 | 4 | 5 => simp [Channel.peek]
  | k + 6 => simp [Channel.peek]

/-- A number is one of the TickSource's, lies in the eight of a channel, or names no register. -/
theorem peek_number_cases (n : Nat) :
    n = 0x00 ∨ n = 0x01 ∨ (∃ (ch : ChanId) (k : Nat), k < 8 ∧ n = 0x10 + 8 * ch.index + k) ∨
      ∀ s : State, s.peek n = none := by
  by_cases hts : n = 0x00 ∨ n = 0x01
  · exact hts.imp_right .inl
  obtain ⟨h0, h1⟩ := not_or.mp hts
  refine .inr (.inr ?_)
  by_cases hc0 : 0x10 ≤ n ∧ n < 0x18
  · exact .inl ⟨.c0, n - 0x10, by omega, by rw [ChanId.index]; omega⟩
  by_cases hc1 : 0x18 ≤ n ∧ n < 0x20
  · exact .inl ⟨.c1, n - 0x18, by omega, by rw [ChanId.index]; omega⟩
  · refine .inr fun s => ?_
    rw [State.peek, if_neg h0, if_neg h1, if_neg hc0, if_neg hc1]

/-- States that agree on the registers of a number read alike there. -/
theorem State.peek_congr {s t : State} {n : Nat} (hts : n = 0x00 ∨ n = 0x01 → t.ts = s.ts)
    (hch : ∀ (ch : ChanId) (k : Nat), n = 0x10 + 8 * ch.index + k → (t.chan ch).peek k = (s.chan ch).peek k) :
    t.peek n = s.peek n := by
  obtain rfl | rfl | ⟨ch, k, hk, rfl⟩ | hnone := peek_number_cases n
  · exact congrArg (fun ts => some (ts.prev32.setWidth 64)) (hts (.inl rfl))
  · exact congrArg (fun ts => some (ts.ovf32.setWidth 64)) (hts (.inr rfl))
  · rw [State.peek_channel t ch hk, State.peek_channel s ch hk]
    exact hch ch k rfl
  · rw [hnone, hnone]

/-- Replacing a channel by one that reads alike at a number changes no read there. -/
theorem State.peek_setChan_deliver (s : State) (ch : ChanId) (c : Channel) (r : Tick) {n : Nat}
    (hc : ∀ k, n = 0x10 + 8 * ch.index + k → c.peek k = (s.chan ch).peek k) :
    ((s.setChan ch c).deliver r).peek n = s.peek n := by
  refine State.peek_congr (fun _ => by simp) fun ch' k hn => ?_
  rw [State.deliver_chan, State.setChan_chan]
  split
  · next e => subst e; exact hc k hn
  · rfl

/-- A class's flag, as a register of its channel (R28 to R30). -/
def PressClass.register : PressClass → Nat
  | .short => 4
  | .long => 5

theorem Channel.clear_peek (c : Channel) {k : PressClass} {j : Nat} (h : j ≠ k.register) :
    (c.clear k).peek j = c.peek j := by
  cases k with
  | short =>
    match j with
    | 4 => exact absurd rfl h
    | 0 | 1 | 2 | 3 | 5 | _ + 6 => rfl
  | long =>
    match j with
    | 5 => exact absurd rfl h
    | 0 | 1 | 2 | 3 | 4 | _ + 6 => rfl

/-- A query changes at most the register of its flag, and no parameter (R89). -/
theorem exec_query_frame (k : PressClass) (s : State) (ch : ChanId) :
    ∃ t, exec (k.query ch) s = .next t ∧ t.params = s.params ∧
      ∀ n, n ≠ 0x10 + 8 * ch.index + k.register → t.peek n = s.peek n := by
  refine ⟨_, exec_query k s ch, by simp, fun n hn => State.peek_setChan_deliver s ch _ _ fun j hj => ?_⟩
  exact Channel.clear_peek _ (by rintro rfl; exact hn hj)

end Machine

open Machine in
/-- Settles O39: the six numbers of a channel are its registers, and only its six and the TickSource's two name any. -/
theorem registerNumbers : Obligations.RegisterNumbers := by
  intro s
  refine ⟨rfl, rfl, fun ch => ?_, fun n => ⟨fun hnone => ?_, fun ⟨h0, h1, hch⟩ => ?_⟩⟩
  · refine ⟨?_, ?_, ?_, ?_, ?_, ?_⟩ <;> exact State.peek_channel s ch (by decide)
  · refine ⟨?_, ?_, fun ch k hk => ?_⟩
    · rintro rfl; cases hnone
    · rintro rfl; cases hnone
    · rintro rfl
      rw [State.peek_channel s ch (by omega), Channel.peek_eq_none_iff] at hnone
      omega
  · obtain hn | hn | ⟨ch, k, hk, rfl⟩ | hnone := peek_number_cases n
    · exact absurd hn h0
    · exact absurd hn h1
    · rw [State.peek_channel s ch hk, Channel.peek_eq_none_iff]
      by_contra hlt
      exact hch ch k (by omega) rfl
    · exact hnone s

open Machine in
/-- Settles O38: NOW writes the TickSource, UPDATE its channel, a query at most its flag. -/
theorem operationFrames : Obligations.OperationFrames := by
  intro s
  refine ⟨⟨_, exec_now s, by simp, fun n h0 h1 => ?_⟩, fun ch => ⟨?_, ?_, exec_query_frame .short s ch,
    exec_query_frame .long s ch⟩⟩
  · exact State.peek_congr (fun hn => absurd hn (not_or.mpr ⟨h0, h1⟩)) (by simp)
  · refine ⟨_, exec_update s ch, by simp, fun n hn => State.peek_setChan_deliver s ch _ _ fun k hk => ?_⟩
    have hsix : 6 ≤ k := by omega
    rw [(Channel.peek_eq_none_iff _ k).mpr hsix, (Channel.peek_eq_none_iff _ k).mpr hsix]
  · exact ⟨_, exec_ispressed s ch, by simp, fun n => State.peek_congr (by simp) (by simp)⟩

/-! The pseudo-operations (30_encoding.md R61, R62), line by line: what issuing one line does to the block, and the
result it puts in front of those of the rest. -/

namespace Machine

@[simp] theorem Ports.setPin_pin (p : Ports) (ch : ChanId) (r : Level) : (p.setPin ch r).pin ch = r := by
  cases ch <;> rfl

@[simp] theorem Ports.setPin_ticks (p : Ports) (ch : ChanId) (r : Level) : (p.setPin ch r).ticks = p.ticks := by
  cases ch <;> rfl

/-- A line's result in front of the results of the rest. -/
def consResult (r : Tick) (rest : State × List Tick) : State × List Tick := (rest.1, r :: rest.2)

/-- A line whose operation answers `t` with the result `r`. -/
theorem runProgram_cons_result {l : AsmLine} {ls : List AsmLine} {n : NowResults} {s t : State} {p : Ports} {r : Tick}
    (hp : l.op.ports s.params (n.of l.ctx) s.ports = some p) (ht : exec l.op.instr (s.present p) = .next t)
    (hr : t.result = some r) :
    runProgram (l :: ls) n s = (runProgram ls (n.after l (some r)) t).map (consResult r) := by
  rw [runProgram_cons hp ht, hr]
  rfl

/-- What a line leaves as it was: the parameters and what was still to come. -/
def State.sameProgram (s t : State) : Prop := t.params = s.params ∧ t.program = s.program

theorem issue_now (c : Context) (x : Sample) (ls : List AsmLine) (n : NowResults) (s : State) :
    ∃ t, runProgram (⟨c, .now x⟩ :: ls) n s =
        (runProgram ls (n.set c (some (s.ts.sample x).tick)) t).map (consResult (s.ts.sample x).tick) ∧
      t.ts = s.ts.sample x ∧ (∀ ch, t.chan ch = s.chan ch) ∧ s.sameProgram t :=
  ⟨_, runProgram_cons_result rfl (exec_now _) rfl, rfl, by simp, rfl, rfl⟩

theorem issue_update {c : Context} {ch : ChanId} {a : TickArg} {pin : PinArg} {n : NowResults} {v : Tick}
    (hv : a.value (n.of c) = some v) (ls : List AsmLine) (s : State) :
    ∃ t, runProgram (⟨c, .update ch a pin⟩ :: ls) n s = (runProgram ls n t).map (consResult 0#64) ∧ t.ts = s.ts ∧
      t.chan ch = (s.chan ch).update (s.params.chan ch) v (pin.level (s.params.chan ch)) ∧
      (∀ ch', ch' ≠ ch → t.chan ch' = s.chan ch') ∧ s.sameProgram t := by
  have hports : (AsmOp.update ch a pin).ports s.params (n.of c) s.ports = some
      (({ s.ports with cmd := encode (.update ch), ticks := v }).setPin ch (pin.level (s.params.chan ch))) := by
    rw [AsmOp.ports, hv]
    rfl
  exact ⟨_, runProgram_cons_result hports (exec_update _ ch) rfl, by simp, by simp,
    fun ch' hne => by simp [State.setChan_chan_ne _ hne], by simp [State.sameProgram]⟩

theorem issue_ispressed (c : Context) (ch : ChanId) (ls : List AsmLine) (n : NowResults) (s : State) :
    ∃ t, runProgram (⟨c, .ispressed ch⟩ :: ls) n s =
        (runProgram ls n t).map (consResult (zextBool (s.chan ch).pressed)) ∧
      t.ts = s.ts ∧ ∀ ch', t.chan ch' = s.chan ch' := by
  refine ⟨_, runProgram_cons_result rfl (exec_ispressed _ ch) ?_, rfl, by simp⟩
  simp

/-- The line of a class's query. -/
def PressClass.asmOp : PressClass → ChanId → AsmOp
  | .short => .isshort
  | .long => .islong

theorem issue_query (k : PressClass) (c : Context) (ch : ChanId) (ls : List AsmLine) (n : NowResults) (s : State) :
    ∃ t, runProgram (⟨c, k.asmOp ch⟩ :: ls) n s =
        (runProgram ls n t).map (consResult (zextBool ((s.chan ch).pending k))) ∧
      t.ts = s.ts ∧ t.chan ch = (s.chan ch).clear k ∧ ∀ ch', ch' ≠ ch → t.chan ch' = s.chan ch' := by
  have hafter : ∀ r, n.after ⟨c, k.asmOp ch⟩ r = n := fun r => by cases k <;> rfl
  have hports : (k.asmOp ch).ports s.params (n.of c) s.ports = some { s.ports with cmd := encode (k.query ch) } := by
    cases k <;> rfl
  have hinstr : (k.asmOp ch).instr = k.query ch := by cases k <;> rfl
  have hexec : ∀ p, exec (k.asmOp ch).instr (s.present p) =
      .next (((s.present p).setChan ch ((s.chan ch).clear k)).deliver (zextBool ((s.chan ch).pending k))) :=
    fun p => by rw [hinstr, exec_query, State.present_chan]
  have hrun := runProgram_cons_result (l := ⟨c, k.asmOp ch⟩) (ls := ls) hports (hexec _) rfl
  rw [hafter] at hrun
  exact ⟨_, hrun, by simp, by simp, fun ch' hne => by simp [State.setChan_chan_ne _ hne]⟩

/-- The three queries of a channel, as `status` makes them: the results are its three bits, and both flags end clear. -/
theorem issue_channel_queries (c : Context) (ch : ChanId) (ls : List AsmLine) (n : NowResults) (s : State) :
    ∃ t, runProgram (⟨c, .ispressed ch⟩ :: ⟨c, .isshort ch⟩ :: ⟨c, .islong ch⟩ :: ls) n s =
        (runProgram ls n t).map (fun rest => consResult (zextBool (s.chan ch).pressed)
          (consResult (zextBool (s.chan ch).shortPressPending)
            (consResult (zextBool (s.chan ch).longPressPending) rest))) ∧
      t.ts = s.ts ∧ t.chan ch = { s.chan ch with shortPressPending := false, longPressPending := false } ∧
      ∀ ch', ch' ≠ ch → t.chan ch' = s.chan ch' := by
  obtain ⟨t1, hrun1, hts1, hch1⟩ := issue_ispressed c ch (⟨c, .isshort ch⟩ :: ⟨c, .islong ch⟩ :: ls) n s
  obtain ⟨t2, hrun2, hts2, hch2, hother2⟩ := issue_query .short c ch (⟨c, .islong ch⟩ :: ls) n t1
  obtain ⟨t3, hrun3, hts3, hch3, hother3⟩ := issue_query .long c ch ls n t2
  rw [hch1] at hrun2 hch2
  rw [hch2] at hrun3 hch3
  refine ⟨t3, ?_, hts3.trans (hts2.trans hts1), hch3, fun ch' hne => ?_⟩
  · refine hrun1.trans ((congrArg _ hrun2).trans ((congrArg _ (congrArg _ hrun3)).trans ?_))
    rw [Option.map_map, Option.map_map]
    rfl
  · rw [hother3 ch' hne, hother2 ch' hne, hch1]

/-! ### The status byte (R62) -/

/-- Bit 0 is the first result's, and the others are those of the rest, one place up. -/
theorem getLsbD_shiftLeft_or_zextBool (w : BitVec 8) (b : Bool) {i : Nat} (hi : i < 8) :
    ((w <<< 1) ||| (zextBool b).setWidth 8).getLsbD i = if i = 0 then b else w.getLsbD (i - 1) := by
  cases i with
  | zero => cases b <;> simp
  | succ i =>
    have hbit : ((zextBool b).setWidth 8).getLsbD (i + 1) = false := by cases b <;> simp
    rw [BitVec.getLsbD_or, hbit, BitVec.getLsbD_shiftLeft]
    simp [hi]

/-- The byte folded from some bits holds them from bit 0 on, as far as it reaches, and 0 above. -/
theorem getLsbD_foldr_zextBool (bs : List Bool) {i : Nat} (hi : i < 8) :
    ((bs.map zextBool).foldr (fun (r : Tick) (b : BitVec 8) => (b <<< 1) ||| r.setWidth 8) 0#8).getLsbD i =
      bs.getD i false := by
  induction bs generalizing i with
  | nil => simp
  | cons b bs ih =>
    rw [List.map_cons, List.foldr_cons, getLsbD_shiftLeft_or_zextBool _ _ hi]
    cases i with
    | zero => rfl
    | succ i => exact ih (Nat.lt_of_succ_lt hi)

theorem statusByte_bits (b0 b1 b2 b3 b4 b5 : Bool) {i : Nat} (hi : i < 8) :
    (statusByte [zextBool b0, zextBool b1, zextBool b2, zextBool b3, zextBool b4, zextBool b5]).getLsbD i =
      [b0, b1, b2, b3, b4, b5].getD i false :=
  getLsbD_foldr_zextBool [b0, b1, b2, b3, b4, b5] hi

end Machine

open Machine in
/-- Settles O47: the NOW's result is the operand of both updates, and each line leaves the other lines' registers. -/
theorem pollUpdatesWithTheTick : Obligations.PollUpdatesWithTheTick := by
  intro s n x a0 a1
  obtain ⟨t1, hrun1, hts1, hch1, hpar1, hprog1⟩ :=
    issue_now .main x [⟨.main, .update .c0 .lastNow a0⟩, ⟨.main, .update .c1 .lastNow a1⟩] n s
  obtain ⟨t2, hrun2, hts2, hch2, hother2, hpar2, hprog2⟩ := issue_update (c := .main) (ch := .c0) (a := .lastNow)
    (pin := a0) (n := n.set .main (some (s.ts.sample x).tick)) rfl [⟨.main, .update .c1 .lastNow a1⟩] t1
  obtain ⟨t3, hrun3, hts3, hch3, hother3, hpar3, hprog3⟩ := issue_update (c := .main) (ch := .c1) (a := .lastNow)
    (pin := a1) (n := n.set .main (some (s.ts.sample x).tick)) rfl [] t2
  refine ⟨t3, ?_, hts3.trans (hts2.trans hts1), ?_, ?_, hpar3.trans (hpar2.trans hpar1),
    hprog3.trans (hprog2.trans hprog1)⟩
  · rw [poll, hrun1, hrun2, hrun3, runProgram]
    rfl
  · rw [hch1, hpar1] at hch2
    exact (hother3 .c0 (by decide)).trans hch2
  · rw [hother2 .c1 (by decide), hch1, hpar2, hpar1] at hch3
    exact hch3

open Machine in
/-- Settles O48: the three queries of channel 0, then those of channel 1; the byte's bits are theirs in order. -/
theorem statusByteLayout : Obligations.StatusByteLayout := by
  intro s n
  obtain ⟨t, hrun, hts, hch, hother⟩ :=
    issue_channel_queries .bus .c0 [⟨.bus, .ispressed .c1⟩, ⟨.bus, .isshort .c1⟩, ⟨.bus, .islong .c1⟩] n s
  obtain ⟨u, hrun', hts', hch', hother'⟩ := issue_channel_queries .bus .c1 [] n t
  rw [hother .c1 (by decide)] at hrun' hch'
  have hbits := @statusByte_bits s.c0.pressed s.c0.shortPressPending s.c0.longPressPending s.c1.pressed
    s.c1.shortPressPending s.c1.longPressPending
  refine ⟨u, _, ?_, hbits (by decide), hbits (by decide), hbits (by decide), hbits (by decide), hbits (by decide),
    hbits (by decide), hbits (by decide), hbits (by decide), hts'.trans hts, fun ch => ?_⟩
  · rw [status, hrun, hrun', runProgram]
    rfl
  · cases ch with
    | c0 => exact (hother' .c0 (by decide)).trans hch
    | c1 => exact hch'

end Sys2Proof
